-- ==== Sys2Proof/Word.lean ====
section
/-! DEFINITION. The bit-vector types of the block's values and the record of its input ports
(spec/00_scope.md R6, spec/30_encoding.md R70). -/

namespace Sys2Proof

/-- Eight bits of a word written down (R73; the layout in bytes is the model's, log 10). -/
abbrev Byte := BitVec 8

/-- A Sample: SAMPLE_W = 16 bits, two's complement (R6, R21). -/
abbrev Sample := BitVec 16

/-- A phase pair `ab = a ++ b`: bit 1 is line A, bit 0 is line B (R76). -/
abbrev PhasePair := BitVec 2

/-- A transition key `prev_ab ++ ab`: bits 3:2 the previous pair, bits 1:0 the new one (R77). -/
abbrev Key := BitVec 4

/-- A command word: 24 bits, the class in bits 23:21 (R73). -/
abbrev CommandWord := BitVec 24

/-- The values on the input ports in one clock (R70, R191). -/
structure Inputs where
  rst : Bool
  tick : Bool
  sampleIn : Sample
  edgeValid : Bool
  a : Bool
  b : Bool
  drainEn : Bool
  deriving DecidableEq, Repr, Inhabited

end Sys2Proof
end

