-- ==== Sys2Proof/Config.lean ====
section
/-! DEFINITION. The build-time parameters of the block (spec/00_scope.md R6) and the free values:
constants without a body, for what the spec leaves open in each clock. -/

namespace Sys2Proof

/-- The parameters of R6 that are not fixed at one value. Which assignments are legal is
`Params.legal` (R7). -/
structure Params where
  /-- `N`: capacity of the buffer and number of samples per average. -/
  n : Nat
  /-- `IN_MIN`: the sensor value that maps to duty 5. -/
  inMin : Sample
  /-- `IN_MAX`: the sensor value that maps to duty 95. -/
  inMax : Sample
  /-- `SCALE_NUM`. -/
  scaleNum : Nat
  /-- `SCALE_DEN`. -/
  scaleDen : Nat
  /-- `PWM_FREQ`, in hertz. -/
  pwmFreq : BitVec 32
  deriving DecidableEq, Repr

/-- The parameters at the values R6 gives, with a capacity and a frequency, which R6 leaves OPEN. -/
def Params.withDefaults (n : Nat) (pwmFreq : BitVec 32) : Params :=
  { n := n, inMin := 0, inMax := 1023, scaleNum := 100, scaleDen := 1023, pwmFreq := pwmFreq }

/-- `IDX_W = max(1, ceil(log2 N))`, the width of `wr`, `rd` and `k` (R6). -/
def Params.idxWidth (p : Params) : Nat := max 1 (Nat.clog 2 p.n)

/-- `COUNT_W = ceil(log2(N + 1))`, the width of `count` (R6). -/
def Params.countWidth (p : Params) : Nat := Nat.clog 2 (p.n + 1)

/-- DUTY_MIN, a constant of the block (R6, R153). -/
def Config.dutyMin : Int := 5

/-- DUTY_MAX, a constant of the block (R6, R153). -/
def Config.dutyMax : Int := 95

/-- Free value: the inputs the environment drives in a clock for which nothing is queued
(R191, U10: "the environment chooses the inputs of every clock freely"; log 5). -/
opaque Config.envInputs (clock : Nat) : Inputs

/-- Free value: what entry `i` holds, read in clock `clock`, when no PUSH has written it since
RESET (R21, U1; log 3). -/
opaque Config.unspecifiedSample (clock i : Nat) : Sample

/-- Free value: the port `duty` in a clock with `out_valid = 0` (R39, U3; log 4). -/
opaque Config.idleDuty (clock : Nat) : BitVec 7

/-- Free value: the port `altitude` in a clock with `out_valid = 0` (R39, U3; log 4). -/
opaque Config.idleAltitude (clock : Nat) : Sample

/-- Free value: the port `alt_percent` in a clock with `out_valid = 0` (R39, U3; log 4). -/
opaque Config.idleAltPercent (clock : Nat) : BitVec 32

end Sys2Proof
end

