-- ==== Sys2Proof/Syntax.lean ====
section
/-! DEFINITION. The instructions: one constructor per row of spec/opcode_table.json; why a word is
rejected; and the abstract syntax of the assembler's lines (spec/30_encoding.md R73 to R83). -/

namespace Sys2Proof

/-- One row of spec/opcode_table.json with the operands its format reads (R74, R75, R77). Fields a
CYCLE form does not read are no operands (R79, log 12). -/
inductive Instr where
  /-- `NOP`: a clock with no slot active. -/
  | nop
  /-- `QEDGE ab`. -/
  | qedge (ab : PhasePair)
  /-- `TICK s`. -/
  | tick (x : Sample)
  /-- `TICK s + QEDGE ab`. -/
  | tickQedge (x : Sample) (ab : PhasePair)
  /-- `DRAIN`. -/
  | drain
  /-- `DRAIN + QEDGE ab`. -/
  | drainQedge (ab : PhasePair)
  /-- `TICK s + DRAIN`. -/
  | tickDrain (x : Sample)
  /-- `TICK s + DRAIN + QEDGE ab`. -/
  | tickDrainQedge (x : Sample) (ab : PhasePair)
  /-- `RESET ab`. -/
  | reset (ab : PhasePair)
  /-- `PUSH s`, test access. -/
  | push (x : Sample)
  /-- `POP`, test access. -/
  | pop
  /-- `YAWRD`, test access. -/
  | yawrd
  /-- `SCALE v`, test access. -/
  | scale (v : Sample)
  /-- The rows of the transition table, named by their key: previous pair, then new pair. -/
  | qkey0000
  | qkey0001
  | qkey0010
  | qkey0011
  | qkey0100
  | qkey0101
  | qkey0110
  | qkey0111
  | qkey1000
  | qkey1001
  | qkey1010
  | qkey1011
  | qkey1100
  | qkey1101
  | qkey1110
  | qkey1111
  deriving DecidableEq, Repr

/-- Why a presented word is no instruction. -/
inductive Reject where
  /-- Class 110 or 111 (R80). -/
  | reservedClass (cls : BitVec 3)
  /-- A bit that the class's format shows as 0 is 1 (R80). -/
  | mustBeZero (cls : BitVec 3)
  /-- A byte presented as a key has a bit above bit 3 set (R77: a key is 4 bits). -/
  | keyHighBits
  /-- Neither the three bytes of a command word nor the one byte of a key (R73, R77). -/
  | wordLength (bytes : Nat)
  deriving DecidableEq, Repr

/-- A literal `<s>` or `<v>` of the assembler (R82). -/
inductive Literal where
  /-- A decimal integer. -/
  | dec (v : Int)
  /-- `0x` and hexadecimal digits, most significant first: the 16-bit pattern. -/
  | hex (digits : List (Fin 16))
  deriving DecidableEq, Repr

/-- A line of the assembler (R82) or a pseudo-instruction (R83). -/
inductive AsmLine where
  /-- `NOP`, or the slot terms `TICK <s>`, `DRAIN`, `QEDGE <ab>` that are present. -/
  | cycle (tick : Option Literal) (drain : Bool) (qedge : Option PhasePair)
  | reset (ab : PhasePair)
  | push (s : Literal)
  | pop
  | yawrd
  | scale (v : Literal)
  /-- `REP n: <line>`. -/
  | rep (n : Nat) (line : AsmLine)
  /-- `TICKS s1, ..., sm`. -/
  | ticks (ss : List Literal)
  /-- `QSEQ p1 ... pm`. -/
  | qseq (ps : List PhasePair)
  /-- `DRAINS n`. -/
  | drains (n : Nat)
  /-- `FEED s`. -/
  | feed (s : Literal)
  deriving DecidableEq, Repr

end Sys2Proof
end

