-- ==== Sys2Proof/WellFormed.lean ====
section
/-! DEFINITION. What is legal: parameter assignments (spec/00_scope.md R6, R7), command words
(spec/30_encoding.md R80), the assembler's literals and lines (R82). -/

namespace Sys2Proof

/-- The "legal values" column of R6; an assignment outside it has no hardware (R7). `IN_MIN`,
`IN_MAX` and `PWM_FREQ` are in range by their type. -/
def Params.legal (p : Params) : Bool :=
  decide (1 ≤ p.n) && decide (p.n ≤ 65536) && decide (p.inMin.toInt < p.inMax.toInt) &&
    decide (p.scaleNum ≤ 32767) && decide (1 ≤ p.scaleDen) && decide (p.scaleDen ≤ 32767)

/-- Every operand of an instruction has exactly the width its encoding gives it (R78), so every
term of `Instr` is well-formed. -/
def Instr.wellFormed (_ : Instr) : Bool := true

/-- The reserved command words, bit by bit as R80 lists them. -/
def commandReserved (w : CommandWord) : Bool :=
  match (w.extractLsb' 21 3).toNat with
  | 0 => false
  | 1 => w.extractLsb' 18 3 != 0 || w.extractLsb' 0 16 != 0
  | 2 => w.extractLsb' 16 5 != 0
  | 3 => w.extractLsb' 0 21 != 0
  | 4 => w.extractLsb' 0 21 != 0
  | 5 => w.extractLsb' 16 5 != 0
  | _ => true

/-- R82: a decimal literal lies in -32768 .. 32767; a hexadecimal one has one to four digits. -/
def Literal.wellFormed : Literal → Bool
  | .dec v => decide (-32768 ≤ v) && decide (v ≤ 32767)
  | .hex ds => decide (1 ≤ ds.length) && decide (ds.length ≤ 4)

/-- A line whose literals are well-formed; a list of operands (`TICKS`, `QSEQ`) is not empty (R83
writes them from a first operand on). -/
def AsmLine.wellFormed : AsmLine → Bool
  | .cycle t _ _ => t.all Literal.wellFormed
  | .reset _ => true
  | .push s => s.wellFormed
  | .pop => true
  | .yawrd => true
  | .scale v => v.wellFormed
  | .rep _ l => l.wellFormed
  | .ticks ss => !ss.isEmpty && ss.all Literal.wellFormed
  | .qseq ps => !ps.isEmpty
  | .drains _ => true
  | .feed s => s.wellFormed

end Sys2Proof
end

