-- ==== Sys2Proof/Decode.lean ====
section
/-! DEFINITION. From the bits of a word to an instruction and back (spec/30_encoding.md R73 to R81).
A command word is three bytes, the least significant first; a transition key is one byte whose high
four bits are 0; the length tells which (log 10). -/

namespace Sys2Proof

/-- The class of a command word (R73). -/
def fieldClass (w : CommandWord) : BitVec 3 := w.extractLsb' 21 3

/-- The slot bit `d` of a CYCLE word (R73). -/
def fieldD (w : CommandWord) : Bool := w.getLsbD 20

/-- The slot bit `t` of a CYCLE word (R73). -/
def fieldT (w : CommandWord) : Bool := w.getLsbD 19

/-- The slot bit `e` of a CYCLE word (R73). -/
def fieldE (w : CommandWord) : Bool := w.getLsbD 18

/-- The phase pair of a CYCLE or RESET word: bit 17 is A, bit 16 is B (R78). -/
def fieldAb (w : CommandWord) : PhasePair := w.extractLsb' 16 2

/-- The sample field `s` or `v` (R78). -/
def fieldS (w : CommandWord) : Sample := w.extractLsb' 0 16

/-- The row of R74 that three slot bits select, with the operands that row reads. -/
def cycleForm (d t e : Bool) (x : Sample) (ab : PhasePair) : Instr :=
  match d, t, e with
  | false, false, false => .nop
  | false, false, true => .qedge ab
  | false, true, false => .tick x
  | false, true, true => .tickQedge x ab
  | true, false, false => .drain
  | true, false, true => .drainQedge ab
  | true, true, false => .tickDrain x
  | true, true, true => .tickDrainQedge x ab

/-- The instruction of a 24-bit command word (R73 to R75), or why it is reserved (R80). -/
def decodeCommand (w : CommandWord) : Except Reject Instr :=
  match (fieldClass w).toNat with
  | 0 => .ok (cycleForm (fieldD w) (fieldT w) (fieldE w) (fieldS w) (fieldAb w))
  | 1 =>
    if w.extractLsb' 18 3 = 0 ∧ fieldS w = 0 then .ok (.reset (fieldAb w))
    else .error (.mustBeZero (fieldClass w))
  | 2 =>
    if w.extractLsb' 16 5 = 0 then .ok (.push (fieldS w)) else .error (.mustBeZero (fieldClass w))
  | 3 => if w.extractLsb' 0 21 = 0 then .ok .pop else .error (.mustBeZero (fieldClass w))
  | 4 => if w.extractLsb' 0 21 = 0 then .ok .yawrd else .error (.mustBeZero (fieldClass w))
  | 5 =>
    if w.extractLsb' 16 5 = 0 then .ok (.scale (fieldS w)) else .error (.mustBeZero (fieldClass w))
  | _ => .error (.reservedClass (fieldClass w))

/-- The row of the transition table that a key names (R77, R170). -/
def decodeKey (key : Key) : Instr :=
  match key.toNat with
  | 0x0 => .qkey0000
  | 0x1 => .qkey0001
  | 0x2 => .qkey0010
  | 0x3 => .qkey0011
  | 0x4 => .qkey0100
  | 0x5 => .qkey0101
  | 0x6 => .qkey0110
  | 0x7 => .qkey0111
  | 0x8 => .qkey1000
  | 0x9 => .qkey1001
  | 0xA => .qkey1010
  | 0xB => .qkey1011
  | 0xC => .qkey1100
  | 0xD => .qkey1101
  | 0xE => .qkey1110
  | _ => .qkey1111

/-- The instruction that the bytes of one presented word stand for. -/
def decode (bytes : List Byte) : Except Reject Instr :=
  match bytes with
  | [b] => if b.extractLsb' 4 4 = 0 then .ok (decodeKey (b.extractLsb' 0 4)) else .error .keyHighBits
  | [b0, b1, b2] => decodeCommand (b2 ++ b1 ++ b0)
  | _ => .error (.wordLength bytes.length)

/-- A CYCLE word (R73). -/
def encodeCycle (d t e : Bool) (ab : PhasePair) (x : Sample) : CommandWord :=
  0b000#3 ++ BitVec.ofBool d ++ BitVec.ofBool t ++ BitVec.ofBool e ++ ab ++ x

/-- The bytes of a command word, the least significant first (log 10). -/
def commandBytes (w : CommandWord) : List Byte :=
  [w.extractLsb' 0 8, w.extractLsb' 8 8, w.extractLsb' 16 8]

/-- The byte of a transition key. -/
def keyBytes (key : Key) : List Byte := [0b0000#4 ++ key]

/-- The bytes of an instruction; fields it does not read are written as zeros, as the assembler
writes them (R74, R75, R77, R79). -/
def encode : Instr → List Byte
  | .nop => commandBytes (encodeCycle false false false 0 0)
  | .qedge ab => commandBytes (encodeCycle false false true ab 0)
  | .tick x => commandBytes (encodeCycle false true false 0 x)
  | .tickQedge x ab => commandBytes (encodeCycle false true true ab x)
  | .drain => commandBytes (encodeCycle true false false 0 0)
  | .drainQedge ab => commandBytes (encodeCycle true false true ab 0)
  | .tickDrain x => commandBytes (encodeCycle true true false 0 x)
  | .tickDrainQedge x ab => commandBytes (encodeCycle true true true ab x)
  | .reset ab => commandBytes (0b001#3 ++ 0b000#3 ++ ab ++ 0#16)
  | .push x => commandBytes (0b010#3 ++ 0b00000#5 ++ x)
  | .pop => commandBytes (0b011#3 ++ 0#21)
  | .yawrd => commandBytes (0b100#3 ++ 0#21)
  | .scale v => commandBytes (0b101#3 ++ 0b00000#5 ++ v)
  | .qkey0000 => keyBytes 0b0000
  | .qkey0001 => keyBytes 0b0001
  | .qkey0010 => keyBytes 0b0010
  | .qkey0011 => keyBytes 0b0011
  | .qkey0100 => keyBytes 0b0100
  | .qkey0101 => keyBytes 0b0101
  | .qkey0110 => keyBytes 0b0110
  | .qkey0111 => keyBytes 0b0111
  | .qkey1000 => keyBytes 0b1000
  | .qkey1001 => keyBytes 0b1001
  | .qkey1010 => keyBytes 0b1010
  | .qkey1011 => keyBytes 0b1011
  | .qkey1100 => keyBytes 0b1100
  | .qkey1101 => keyBytes 0b1101
  | .qkey1110 => keyBytes 0b1110
  | .qkey1111 => keyBytes 0b1111

/-- A CYCLE word with zeros in the fields its form does not read (R79). -/
def canonicalCycle (w : CommandWord) : CommandWord :=
  encodeCycle (fieldD w) (fieldT w) (fieldE w)
    (if fieldE w then fieldAb w else 0) (if fieldT w then fieldS w else 0)

/-- A row of R74 or R75: a word is the instruction of the row when `w and mask = pattern`. -/
structure OpcodeRow where
  mnemonic : String
  pattern : CommandWord
  mask : CommandWord
  deriving DecidableEq, Repr

/-- R75: `w` is the instruction of the row. -/
def OpcodeRow.isRowOf (r : OpcodeRow) (w : CommandWord) : Bool := w &&& r.mask == r.pattern

/-- The 13 command-word rows of R74 and R75 with their match and mask. -/
def opcodeRows : List OpcodeRow :=
  [ ⟨"NOP", 0x000000, 0xFC0000⟩, ⟨"QEDGE", 0x040000, 0xFC0000⟩, ⟨"TICK", 0x080000, 0xFC0000⟩,
    ⟨"TICK+QEDGE", 0x0C0000, 0xFC0000⟩, ⟨"DRAIN", 0x100000, 0xFC0000⟩,
    ⟨"DRAIN+QEDGE", 0x140000, 0xFC0000⟩, ⟨"TICK+DRAIN", 0x180000, 0xFC0000⟩,
    ⟨"TICK+DRAIN+QEDGE", 0x1C0000, 0xFC0000⟩ ] ++
  [ ⟨"RESET", 0x200000, 0xFCFFFF⟩, ⟨"PUSH", 0x400000, 0xFF0000⟩, ⟨"POP", 0x600000, 0xFFFFFF⟩,
    ⟨"YAWRD", 0x800000, 0xFFFFFF⟩, ⟨"SCALE", 0xA00000, 0xFF0000⟩ ]

/-- The mnemonic of an instruction, as spec/opcode_table.json spells it. -/
def Instr.mnemonic : Instr → String
  | .nop => "NOP"
  | .qedge _ => "QEDGE"
  | .tick _ => "TICK"
  | .tickQedge _ _ => "TICK+QEDGE"
  | .drain => "DRAIN"
  | .drainQedge _ => "DRAIN+QEDGE"
  | .tickDrain _ => "TICK+DRAIN"
  | .tickDrainQedge _ _ => "TICK+DRAIN+QEDGE"
  | .reset _ => "RESET"
  | .push _ => "PUSH"
  | .pop => "POP"
  | .yawrd => "YAWRD"
  | .scale _ => "SCALE"
  | .qkey0000 => "QKEY_00_00"
  | .qkey0001 => "QKEY_00_01"
  | .qkey0010 => "QKEY_00_10"
  | .qkey0011 => "QKEY_00_11"
  | .qkey0100 => "QKEY_01_00"
  | .qkey0101 => "QKEY_01_01"
  | .qkey0110 => "QKEY_01_10"
  | .qkey0111 => "QKEY_01_11"
  | .qkey1000 => "QKEY_10_00"
  | .qkey1001 => "QKEY_10_01"
  | .qkey1010 => "QKEY_10_10"
  | .qkey1011 => "QKEY_10_11"
  | .qkey1100 => "QKEY_11_00"
  | .qkey1101 => "QKEY_11_01"
  | .qkey1110 => "QKEY_11_10"
  | .qkey1111 => "QKEY_11_11"

/-- The instruction that a clock with these port values performs (R81): RESET when `rst = 1`,
whatever the other ports carry (R190 a), else the form of CYCLE that the three enables select. -/
def Inputs.toInstr (p : Inputs) : Instr :=
  let ab : PhasePair := BitVec.ofBool p.a ++ BitVec.ofBool p.b
  if p.rst then .reset ab else cycleForm p.drainEn p.tick p.edgeValid p.sampleIn ab

/-- `count` bytes of a number, the least significant first. -/
def natBytes (count w : Nat) : List Byte :=
  match count with
  | 0 => []
  | n + 1 => BitVec.ofNat 8 w :: natBytes n (w / 256)

/-- The bytes of a word of spec/opcode_table.json given as a number of `nbits` bits: one byte for a
key row (4 bits), three for a command word (24 bits), the bits above `nbits` zero. -/
def wordBytes (nbits w : Nat) : List Byte :=
  let count := if nbits ≤ 8 then 1 else if nbits ≤ 24 then 3 else (nbits + 7) / 8
  natBytes count (w % 2 ^ nbits)

/-- The instruction the decoder reads from a word of spec/opcode_table.json, numbered as there. -/
def decodeTableWord (nbits w : Nat) : Option Instr :=
  match decode (wordBytes nbits w) with
  | .ok i => some i
  | .error _ => none

end Sys2Proof
end

