-- ==== Sys2Proof/Machine/State.lean ====
section
/-! DEFINITION. The state: the nine items of spec/10_state.md R20 (`Block`), the build-time
parameters, the ports of the last clock, and the queue of inputs; the closed reasons for a stop; the
state after reset. -/

namespace Sys2Proof.Machine

open Sys2Proof

/-- The entries of `mem` that a PUSH has written since RESET, as (index, sample), indices strictly
rising. An entry that is not listed is unspecified (R21, log 3). The smallest unit of this storage
is a whole entry (R54), so a cell is an entry and not a byte (log 15). -/
abbrev Memory := List (Nat × Sample)

/-- The architectural state of the block: "exactly the nine items" of R20. -/
structure Block where
  /-- `mem[0 .. N-1]` (R21). -/
  mem : Memory
  /-- The write index (R22). -/
  wr : Nat
  /-- The read index (R23). -/
  rd : Nat
  /-- The number of unread samples (R24). -/
  count : Nat
  /-- The Sample Counter, 32 bits unsigned (R26). -/
  sampleCount : BitVec 32
  /-- The running sum, 32 bits signed (R27). -/
  acc : BitVec 32
  /-- How many samples of this control cycle have been drained (R28). -/
  k : Nat
  /-- The Yaw State, 32 bits signed (R29). -/
  yaw : BitVec 32
  /-- The pair read at the previous invocation of the decoder (R30). -/
  prevAb : PhasePair
  deriving DecidableEq, Repr

/-- The OUT record of one control cycle (R71). -/
structure OutRecord where
  pwmFreq : BitVec 32
  duty : BitVec 7
  altitude : Sample
  altPercent : BitVec 32
  yaw : BitVec 32
  sampleCount : BitVec 32
  deriving DecidableEq, Repr

/-- What the output ports of R71 carry in one clock. `record` is the OUT record when `out_valid = 1`
and none when `out_valid = 0`; then `duty`, `altitude` and `alt_percent` carry anything (R39, see
`State.dutyPort`, `State.altitudePort`, `State.altPercentPort`). -/
structure Outputs where
  pwmFreq : BitVec 32
  yawOut : BitVec 32
  sampleCountOut : BitVec 32
  record : Option OutRecord
  deriving DecidableEq, Repr

/-- What an operation returns to whoever invoked it (R14, R196). -/
inductive Response where
  /-- Nothing: the operation has no `return`. -/
  | none
  /-- POP: `none` or `some v` (R102). -/
  | popped (r : Option Sample)
  /-- YAWRD (R174). -/
  | yaw (v : BitVec 32)
  /-- SCALE: `(PCT(v), DUTY(v))` (R157). -/
  | scaled (pct : BitVec 32) (duty : BitVec 7)
  /-- A row of the transition table: QDELTA of its key (R9, R170; log 7). -/
  | qdelta (d : Int)
  deriving DecidableEq, Repr

/-- One clock's stimulus, as the environment presents it. -/
inductive Stimulus where
  /-- Values on the input ports (R70). -/
  | ports (p : Inputs)
  /-- A word written down: a command word or a transition key, as bytes (R73, R77). -/
  | word (bytes : List Byte)
  deriving DecidableEq, Repr

/-- The state of the model: the block's nine items, and the model's own fields, which the spec does
not count as state (logs 1, 4, 5, 6, 11). -/
structure State where
  /-- The build-time parameters (R6); no instruction changes them. -/
  params : Params
  /-- The architectural state (R20). -/
  block : Block
  /-- The output ports in the last clock performed (R39, R71). -/
  outputs : Outputs
  /-- What the last operation returned (R14). -/
  response : Response
  /-- The clocks performed, the argument of the free values. -/
  clock : Nat
  /-- The stimuli the environment has queued, the next one first. -/
  stimuli : List Stimulus
  deriving DecidableEq, Repr

/-- Why the machine stops with a fault. -/
inductive Fault where
  /-- An access to an entry `index` that is not one of `0 .. N-1`. Raised by PUSH (`wr`) and POP
  (`rd`), and by the clocks that perform them. Safe: no state reachable from RESET makes such an
  access (R51), and the hardware gives it no meaning. -/
  | noSuchEntry (index : Nat)
  deriving DecidableEq, Repr

/-- Why the model gives an input no meaning. -/
inductive Refusal where
  /-- Raised by `exec` for an instruction without a meaning. Safe. -/
  | notModelled (mnemonic : String)
  /-- Raised by every instruction when the parameters are outside R6's legal values: no such block
  exists (R7). Safe. -/
  | illegalParameters
  /-- Raised by `step` for a stimulus that is a reserved command word (R80) or no word of the
  opcode table. Safe. -/
  | reservedWord (why : Reject)
  deriving DecidableEq, Repr

/-- The nine items after RESET(ab0), with no entry of `mem` specified (R38). -/
def Block.afterReset (ab0 : PhasePair) : Block :=
  { mem := [], wr := 0, rd := 0, count := 0, sampleCount := 0, acc := 0, k := 0, yaw := 0,
    prevAb := ab0 }

/-- The machine right after RESET(ab0), built with parameters `p`, with no input queued (R38,
R240). The ports and the response of that moment are the model's choice (logs 4, 11). -/
def State.resetWith (p : Params) (ab0 : PhasePair) : State :=
  { params := p, block := Block.afterReset ab0,
    outputs := { pwmFreq := p.pwmFreq, yawOut := 0, sampleCountOut := 0, record := none },
    response := .none, clock := 0, stimuli := [] }

/-- The machine right after reset. The parameters R6 leaves OPEN and the phase levels at reset are
DESIGN CHOICE values: `N = 4`, `PWM_FREQ = 0` (log 1), `ab0 = 00` (log 2). -/
def State.reset : State := State.resetWith (Params.withDefaults 4 0) 0

end Sys2Proof.Machine
end

