-- ==== Sys2Proof/Machine/Operands.lean ====
section
/-! DEFINITION. Reading operands and the integer arithmetic of the spec: `sext`, `wrap`, `quot`,
`clamp` (spec/00_scope.md R10 to R13), phase pairs and keys (spec/30_encoding.md R76, R77). -/

namespace Sys2Proof.Machine

open Sys2Proof

/-- `sext_16`: the integer a Sample stands for (R11, R78). -/
def sext (x : Sample) : Int := x.toInt

/-- `wrapS_W`: the two's complement residue, as the W-bit pattern it is stored as (R11). -/
def wrapS (width : Nat) (v : Int) : BitVec width := BitVec.ofInt width v

/-- `wrapU_W`: the unsigned residue (R11). -/
def wrapU (width : Nat) (v : Nat) : BitVec width := BitVec.ofNat width v

/-- `a quot b`: the quotient truncated toward zero (R12). -/
def quot (a b : Int) : Int := a.tdiv b

/-- `clamp(v, lo, hi)` (R13). -/
def clamp (v lo hi : Int) : Int := if v < lo then lo else if hi < v then hi else v

/-- `prev_ab ++ ab` (R77). -/
def keyOf (prev ab : PhasePair) : Key := prev ++ ab

/-- The index after `i` modulo N: "post-incremented modulo N" (R51). -/
def nextIndex (n i : Nat) : Nat := (i + 1) % n

/-- QDELTA, the sixteen rows of R170. -/
def qdelta (key : Key) : Int :=
  match key.toNat with
  | 0x0 => 0
  | 0x1 => 1
  | 0x2 => -1
  | 0x3 => 0
  | 0x4 => -1
  | 0x5 => 0
  | 0x6 => 0
  | 0x7 => 1
  | 0x8 => 1
  | 0x9 => 0
  | 0xA => 0
  | 0xB => -1
  | 0xC => 0
  | 0xD => -1
  | 0xE => 1
  | _ => 0

/-- AVG(S) = `S quot N` (R135). -/
def avg (n : Nat) (sum : Int) : Int := quot sum n

/-- PCT(v) (R150). -/
def pct (p : Params) (v : Sample) : Int := quot (sext v * p.scaleNum) p.scaleDen

/-- `raw` of R151: the linear map before the clamp. -/
def dutyRaw (p : Params) (v : Sample) : Int :=
  Config.dutyMin +
    quot ((sext v - sext p.inMin) * (Config.dutyMax - Config.dutyMin)) (sext p.inMax - sext p.inMin)

/-- DUTY(v) (R151). -/
def duty (p : Params) (v : Sample) : Int := clamp (dutyRaw p v) Config.dutyMin Config.dutyMax

/-- PCT(v) as the 32-bit signed port carries it (R150: it fits). -/
def pctPort (p : Params) (v : Sample) : BitVec 32 := wrapS 32 (pct p v)

/-- DUTY(v) as the 7-bit unsigned port carries it (R151: it fits). -/
def dutyPort (p : Params) (v : Sample) : BitVec 7 := wrapS 7 (duty p v)

end Sys2Proof.Machine
end

