-- ==== Sys2Proof/Machine/Flags.lean ====
section
/-! DEFINITION. The block stores no flag (spec/10_state.md R32). Its condition-like signals are
combinational: `empty` and `full` (R24), `out_valid` and the data ports (R39, R71). -/

namespace Sys2Proof.Machine

open Sys2Proof

/-- `empty = (count = 0)` (R24). -/
def Block.empty (b : Block) : Bool := b.count == 0

/-- `full = (count = N)` (R24). -/
def Block.full (n : Nat) (b : Block) : Bool := b.count == n

/-- The port `out_valid` in the last clock performed (R71). -/
def State.outValid (s : State) : Bool := s.outputs.record.isSome

/-- The port `duty` in the last clock performed: the record's value, or anything (R39, U3). -/
def State.dutyPort (s : State) : BitVec 7 :=
  match s.outputs.record with
  | some r => r.duty
  | none => Config.idleDuty s.clock

/-- The port `altitude` in the last clock performed: the record's value, or anything (R39, U3). -/
def State.altitudePort (s : State) : Sample :=
  match s.outputs.record with
  | some r => r.altitude
  | none => Config.idleAltitude s.clock

/-- The port `alt_percent` in the last clock performed: the record's value, or anything (R39, U3). -/
def State.altPercentPort (s : State) : BitVec 32 :=
  match s.outputs.record with
  | some r => r.altPercent
  | none => Config.idleAltPercent s.clock

end Sys2Proof.Machine
end

