-- ==== Sys2Proof/Machine/Ops.lean ====
section
/-! DEFINITION. The named operations over the storage and the registers: MemRead and MemWrite
(spec/20_memory.md R50), PUSH, POP, TICK, DRAIN, QEDGE, RESET on the nine items of the state, and
how one clock's operations become one outcome. The block takes no exception and returns from none
(spec/60_exceptions.md R210, R219), so no such operation stands here. -/

namespace Sys2Proof.Machine

open Sys2Proof

/-- What is known of entry `i`: the sample the last PUSH to it stored since RESET, or nothing
(R21). -/
def Memory.read? : Memory → Nat → Option Sample
  | [], _ => none
  | (j, v) :: rest, i => if j = i then some v else Memory.read? rest i

/-- `MemRead(i)`: the entry's sample; a free value where no PUSH has written it (R21, U1). -/
def Memory.read (m : Memory) (clock i : Nat) : Sample :=
  (Memory.read? m i).getD (Config.unspecifiedSample clock i)

/-- `MemWrite(i, v)`, keeping the indices strictly rising. -/
def Memory.write : Memory → Nat → Sample → Memory
  | [], i, v => [(i, v)]
  | (j, w) :: rest, i, v =>
    if i < j then (i, v) :: (j, w) :: rest
    else if i = j then (i, v) :: rest
    else (j, w) :: Memory.write rest i v

/-- Every index is at least `lo` and the indices strictly rise. -/
def Memory.risesFrom : Memory → Nat → Bool
  | [], _ => true
  | (j, _) :: rest, lo => decide (lo ≤ j) && Memory.risesFrom rest (j + 1)

/-- The canonical form: indices strictly rising. An unlisted entry reads as "nothing known", which
no listed one does, so equal memories are equal lists. -/
def Memory.wf (m : Memory) : Bool := Memory.risesFrom m 0

/-- Every listed entry is one of `0 .. n-1`. -/
def Memory.within (n : Nat) (m : Memory) : Bool := m.all fun c => decide (c.1 < n)

/-- PUSH(s) (R101): store at `wr`; when the buffer was full the oldest unread sample is dropped. -/
def push (n : Nat) (x : Sample) (b : Block) : Except Fault Block :=
  if b.wr < n then
    .ok { b with
      mem := Memory.write b.mem b.wr x
      wr := nextIndex n b.wr
      rd := if b.full n then nextIndex n b.rd else b.rd
      count := if b.full n then b.count else b.count + 1 }
  else .error (.noSuchEntry b.wr)

/-- POP (R102): the oldest unread sample, or `none` and no change on an empty buffer. -/
def pop (n clock : Nat) (b : Block) : Except Fault (Option Sample × Block) :=
  if b.empty then .ok (none, b)
  else if b.rd < n then
    .ok (some (Memory.read b.mem clock b.rd),
      { b with rd := nextIndex n b.rd, count := b.count - 1 })
  else .error (.noSuchEntry b.rd)

/-- TICK(s) (R120): PUSH(s) and count the firing, overflow or not. -/
def tick (n : Nat) (x : Sample) (b : Block) : Except Fault Block :=
  match push n x b with
  | .ok b' => .ok { b' with sampleCount := wrapU 32 (b'.sampleCount.toNat + 1) }
  | .error f => .error f

/-- The OUT record for the average `a`: `yaw` and `sample_count` as they stand at the start of the
clock (R71, R136, R158). -/
def outRecord (p : Params) (a : Sample) (b : Block) : OutRecord :=
  { pwmFreq := p.pwmFreq, duty := dutyPort p a, altitude := a, altPercent := pctPort p a,
    yaw := b.yaw, sampleCount := b.sampleCount }

/-- What the engine does with a sample it received (R136): accumulate it, or, on the N-th of the
control cycle, emit the record and start the next cycle. -/
def absorb (p : Params) (x : Sample) (b : Block) : Block × Option OutRecord :=
  if b.k = p.n - 1 then
    let a : Sample := wrapS 16 (avg p.n (b.acc.toInt + sext x))
    ({ b with acc := 0, k := 0 }, some (outRecord p a b))
  else ({ b with acc := wrapS 32 (b.acc.toInt + sext x), k := b.k + 1 }, none)

/-- DRAIN (R136): one poll; nothing happens when it yields no sample (R137). -/
def drain (p : Params) (clock : Nat) (b : Block) : Except Fault (Block × Option OutRecord) :=
  match pop p.n clock b with
  | .ok (none, b') => .ok (b', none)
  | .ok (some x, b') => .ok (absorb p x b')
  | .error f => .error f

/-- QEDGE(ab) (R171): `prev_ab` follows whatever the transition is. -/
def qedge (ab : PhasePair) (b : Block) : Block :=
  { b with yaw := wrapS 32 (b.yaw.toInt + qdelta (keyOf b.prevAb ab)), prevAb := ab }

/-- One row of the transition table applied to the decoder: the row acts when `prev_ab` is its
previous pair, and an unselected row does nothing (R171, log 7). -/
def applyRow (prev ab : PhasePair) (d : Int) (b : Block) : Block :=
  if b.prevAb = prev then { b with yaw := wrapS 32 (b.yaw.toInt + d), prevAb := ab } else b

/-- RESET(ab0) (R190). The entries of `mem` are unspecified afterwards, whatever they held (R38,
log 3). -/
def resetBlock (ab0 : PhasePair) (b : Block) : Block :=
  { b with
    mem := [], wr := 0, rd := 0, count := 0, sampleCount := 0, acc := 0, k := 0, yaw := 0,
    prevAb := ab0 }

/-- The output ports in a clock that starts in state `s` and emits `r`: `yaw_out` and
`sample_count_out` show the registers from before the clock's updates (R57, R71, R192). -/
def State.portsWith (s : State) (r : Option OutRecord) : Outputs :=
  { pwmFreq := s.params.pwmFreq, yawOut := s.block.yaw, sampleCountOut := s.block.sampleCount,
    record := r }

/-- The outcome of a clock whose operations on the nine items gave `r` and whose response is
`resp`. With parameters outside R6's legal values there is no block (R7). -/
def State.complete (s : State) (r : Except Fault (Block × Option OutRecord)) (resp : Response) :
    Host.Outcome State Fault Refusal :=
  if s.params.legal then
    match r with
    | .ok (b, o) => .next { s with block := b, outputs := s.portsWith o, response := resp }
    | .error f => .fault f
  else .refused .illegalParameters

/-- A clock that performs only `r` on the nine items and emits nothing. -/
def noRecord (r : Except Fault Block) : Except Fault (Block × Option OutRecord) :=
  match r with
  | .ok b => .ok (b, none)
  | .error f => .error f

/-- The clock `r` with the decoder's QEDGE(ab) beside it (R192: slot 2). -/
def withQedge (ab : PhasePair) (r : Except Fault (Block × Option OutRecord)) :
    Except Fault (Block × Option OutRecord) :=
  match r with
  | .ok (b, o) => .ok (qedge ab b, o)
  | .error f => .error f

end Sys2Proof.Machine
end

