-- ==== Sys2Proof/Machine/Cycle.lean ====
section
/-! DEFINITION. The eight forms of CYCLE (spec/45_cycle_step.md R192, R193), one meaning each. -/

namespace Sys2Proof.Machine

open Sys2Proof

/-- `NOP`: "changes nothing at all" (R193). -/
def execNop (s : State) : Host.Outcome State Fault Refusal :=
  s.complete (.ok (s.block, none)) .none

/-- `QEDGE ab` (R171). -/
def execQedge (ab : PhasePair) (s : State) : Host.Outcome State Fault Refusal :=
  s.complete (.ok (qedge ab s.block, none)) .none

/-- `TICK s` (R120). -/
def execTick (x : Sample) (s : State) : Host.Outcome State Fault Refusal :=
  s.complete (noRecord (tick s.params.n x s.block)) .none

/-- `TICK s + QEDGE ab` (R193). -/
def execTickQedge (x : Sample) (ab : PhasePair) (s : State) : Host.Outcome State Fault Refusal :=
  s.complete (withQedge ab (noRecord (tick s.params.n x s.block))) .none

/-- `DRAIN` (R136). -/
def execDrain (s : State) : Host.Outcome State Fault Refusal :=
  s.complete (drain s.params s.clock s.block) .none

/-- `DRAIN + QEDGE ab` (R193): the record carries the `yaw` from before the edge. -/
def execDrainQedge (ab : PhasePair) (s : State) : Host.Outcome State Fault Refusal :=
  s.complete (withQedge ab (drain s.params s.clock s.block)) .none

/-- `TICK s + DRAIN` (R122, R193): the producer has the buffer; the DRAIN is not performed. -/
def execTickDrain (x : Sample) (s : State) : Host.Outcome State Fault Refusal :=
  s.complete (noRecord (tick s.params.n x s.block)) .none

/-- `TICK s + DRAIN + QEDGE ab` (R122, R193): the DRAIN is not performed. -/
def execTickDrainQedge (x : Sample) (ab : PhasePair) (s : State) :
    Host.Outcome State Fault Refusal :=
  s.complete (withQedge ab (noRecord (tick s.params.n x s.block))) .none

/-- CYCLE(d, t, e, ab, s) as R192 writes it: one function of the five inputs, the arbiter first,
then the decoder. The eight meanings above are R193's rows; that they agree with this is a
statement. -/
def clockCycle (p : Params) (clock : Nat) (d t e : Bool) (ab : PhasePair) (x : Sample) (b : Block) :
    Except Fault (Block × Option OutRecord) :=
  let slot1 : Except Fault (Block × Option OutRecord) :=
    if t then noRecord (tick p.n x b) else if d then drain p clock b else .ok (b, none)
  if e then withQedge ab slot1 else slot1

end Sys2Proof.Machine
end

