-- ==== Sys2Proof/Machine/TestAccess.lean ====
section
/-! DEFINITION. RESET (spec/45_cycle_step.md R190) and the test-access words PUSH, POP, YAWRD, SCALE
(R196): each takes one clock with no CYCLE slot active. -/

namespace Sys2Proof.Machine

open Sys2Proof

/-- `RESET ab` (R190). In the clock of the RESET itself `yaw_out` and `sample_count_out` still show
the values from before it (R242). -/
def execReset (ab : PhasePair) (s : State) : Host.Outcome State Fault Refusal :=
  s.complete (.ok (resetBlock ab s.block, none)) .none

/-- `PUSH s` (R101), without touching `sample_count` (R196). -/
def execPush (x : Sample) (s : State) : Host.Outcome State Fault Refusal :=
  s.complete (noRecord (push s.params.n x s.block)) .none

/-- The nine items after a POP, and the result as a response. -/
def completePop (s : State) (r : Except Fault (Option Sample × Block)) :
    Host.Outcome State Fault Refusal :=
  match r with
  | .ok (v, b) => s.complete (.ok (b, none)) (.popped v)
  | .error f => s.complete (.error f) .none

/-- `POP` (R102): the result goes to the test bench; `acc` and `k` are not touched (R196). -/
def execPop (s : State) : Host.Outcome State Fault Refusal :=
  completePop s (pop s.params.n s.clock s.block)

/-- `YAWRD` (R174). -/
def execYawrd (s : State) : Host.Outcome State Fault Refusal :=
  s.complete (.ok (s.block, none)) (.yaw s.block.yaw)

/-- `SCALE v` (R157). -/
def execScale (v : Sample) (s : State) : Host.Outcome State Fault Refusal :=
  s.complete (.ok (s.block, none)) (.scaled (pctPort s.params v) (dutyPort s.params v))

end Sys2Proof.Machine
end

