-- ==== Sys2Proof/Machine/Transition.lean ====
section
/-! DEFINITION. The sixteen rows of the transition table (spec/44_quadrature_decoder_sm.md R170, R171),
one meaning each: the row's previous pair, new pair and change of `yaw`. -/

namespace Sys2Proof.Machine

open Sys2Proof

/-- The clock in which the row `prev → ab` with change `d` is presented to the decoder: the row is
applied when it is the one `prev_ab` selects, and QDELTA of its key is returned (R170, R171;
log 7). -/
def presentRow (prev ab : PhasePair) (d : Int) (s : State) : Host.Outcome State Fault Refusal :=
  s.complete (.ok (applyRow prev ab d s.block, none)) (.qdelta d)

/-- `QKEY_00_00`: no change, 0 (R170). -/
def execQkey0000 (s : State) : Host.Outcome State Fault Refusal :=
  presentRow 0b00 0b00 0 s

/-- `QKEY_00_01`: forward, +1 (R170). -/
def execQkey0001 (s : State) : Host.Outcome State Fault Refusal :=
  presentRow 0b00 0b01 1 s

/-- `QKEY_00_10`: reverse, -1 (R170). -/
def execQkey0010 (s : State) : Host.Outcome State Fault Refusal :=
  presentRow 0b00 0b10 (-1) s

/-- `QKEY_00_11`: skipped state, 0 (R170). -/
def execQkey0011 (s : State) : Host.Outcome State Fault Refusal :=
  presentRow 0b00 0b11 0 s

/-- `QKEY_01_00`: reverse, -1 (R170). -/
def execQkey0100 (s : State) : Host.Outcome State Fault Refusal :=
  presentRow 0b01 0b00 (-1) s

/-- `QKEY_01_01`: no change, 0 (R170). -/
def execQkey0101 (s : State) : Host.Outcome State Fault Refusal :=
  presentRow 0b01 0b01 0 s

/-- `QKEY_01_10`: skipped state, 0 (R170). -/
def execQkey0110 (s : State) : Host.Outcome State Fault Refusal :=
  presentRow 0b01 0b10 0 s

/-- `QKEY_01_11`: forward, +1 (R170). -/
def execQkey0111 (s : State) : Host.Outcome State Fault Refusal :=
  presentRow 0b01 0b11 1 s

/-- `QKEY_10_00`: forward, +1 (R170). -/
def execQkey1000 (s : State) : Host.Outcome State Fault Refusal :=
  presentRow 0b10 0b00 1 s

/-- `QKEY_10_01`: skipped state, 0 (R170). -/
def execQkey1001 (s : State) : Host.Outcome State Fault Refusal :=
  presentRow 0b10 0b01 0 s

/-- `QKEY_10_10`: no change, 0 (R170). -/
def execQkey1010 (s : State) : Host.Outcome State Fault Refusal :=
  presentRow 0b10 0b10 0 s

/-- `QKEY_10_11`: reverse, -1 (R170). -/
def execQkey1011 (s : State) : Host.Outcome State Fault Refusal :=
  presentRow 0b10 0b11 (-1) s

/-- `QKEY_11_00`: skipped state, 0 (R170). -/
def execQkey1100 (s : State) : Host.Outcome State Fault Refusal :=
  presentRow 0b11 0b00 0 s

/-- `QKEY_11_01`: reverse, -1 (R170). -/
def execQkey1101 (s : State) : Host.Outcome State Fault Refusal :=
  presentRow 0b11 0b01 (-1) s

/-- `QKEY_11_10`: forward, +1 (R170). -/
def execQkey1110 (s : State) : Host.Outcome State Fault Refusal :=
  presentRow 0b11 0b10 1 s

/-- `QKEY_11_11`: no change, 0 (R170). -/
def execQkey1111 (s : State) : Host.Outcome State Fault Refusal :=
  presentRow 0b11 0b11 0 s

end Sys2Proof.Machine
end

