-- ==== Sys2Proof/Machine/Dispatch.lean ====
section
/-! DEFINITION. The dispatch: one arm per constructor of `Instr`, each one direct call of its meaning. -/

namespace Sys2Proof.Machine

open Sys2Proof

def exec (i : Instr) (s : State) : Host.Outcome State Fault Refusal :=
  match i with
  | .nop => Sys2Proof.Machine.execNop s
  | .qedge ab => Sys2Proof.Machine.execQedge ab s
  | .tick x => Sys2Proof.Machine.execTick x s
  | .tickQedge x ab => Sys2Proof.Machine.execTickQedge x ab s
  | .drain => Sys2Proof.Machine.execDrain s
  | .drainQedge ab => Sys2Proof.Machine.execDrainQedge ab s
  | .tickDrain x => Sys2Proof.Machine.execTickDrain x s
  | .tickDrainQedge x ab => Sys2Proof.Machine.execTickDrainQedge x ab s
  | .reset ab => Sys2Proof.Machine.execReset ab s
  | .push x => Sys2Proof.Machine.execPush x s
  | .pop => Sys2Proof.Machine.execPop s
  | .yawrd => Sys2Proof.Machine.execYawrd s
  | .scale v => Sys2Proof.Machine.execScale v s
  | .qkey0000 => Sys2Proof.Machine.execQkey0000 s
  | .qkey0001 => Sys2Proof.Machine.execQkey0001 s
  | .qkey0010 => Sys2Proof.Machine.execQkey0010 s
  | .qkey0011 => Sys2Proof.Machine.execQkey0011 s
  | .qkey0100 => Sys2Proof.Machine.execQkey0100 s
  | .qkey0101 => Sys2Proof.Machine.execQkey0101 s
  | .qkey0110 => Sys2Proof.Machine.execQkey0110 s
  | .qkey0111 => Sys2Proof.Machine.execQkey0111 s
  | .qkey1000 => Sys2Proof.Machine.execQkey1000 s
  | .qkey1001 => Sys2Proof.Machine.execQkey1001 s
  | .qkey1010 => Sys2Proof.Machine.execQkey1010 s
  | .qkey1011 => Sys2Proof.Machine.execQkey1011 s
  | .qkey1100 => Sys2Proof.Machine.execQkey1100 s
  | .qkey1101 => Sys2Proof.Machine.execQkey1101 s
  | .qkey1110 => Sys2Proof.Machine.execQkey1110 s
  | .qkey1111 => Sys2Proof.Machine.execQkey1111 s

end Sys2Proof.Machine
end

