-- ==== Sys2Proof/Machine/Fetch.lean ====
section
/-! DEFINITION. What the environment presents in a clock (spec/45_cycle_step.md R191): the head of the
queue of stimuli, or free values on the input ports when nothing is queued (log 5). -/

namespace Sys2Proof.Machine

open Sys2Proof

/-- The instruction of the coming clock, or why the presented word is none. -/
def fetch (s : State) : Except Reject Instr :=
  match s.stimuli with
  | [] => .ok (Config.envInputs s.clock).toInstr
  | .ports p :: _ => .ok p.toInstr
  | .word bytes :: _ => decode bytes

/-- The state in which the coming clock's instruction is performed: its stimulus is taken, and the
clock is counted (log 6). -/
def State.advance (s : State) : State :=
  { s with stimuli := s.stimuli.tail, clock := s.clock + 1 }

/-- The stimulus that a word of spec/opcode_table.json stands for. -/
def tableStimulus (nbits w : Nat) : Stimulus := .word (wordBytes nbits w)

end Sys2Proof.Machine
end

