-- ==== Sys2Proof/Machine/Step.lean ====
section
/-! DEFINITION. One clock of the machine (spec/45_cycle_step.md R191, R195: it has no end). -/

namespace Sys2Proof.Machine

open Sys2Proof

/-- One clock: perform the instruction that the environment presents. A reserved word is refused
(R80). -/
def step (s : State) : Host.Outcome State Fault Refusal :=
  match fetch s with
  | .ok i => exec i s.advance
  | .error r => .refused (.reservedWord r)

/-- `s` with a word of spec/opcode_table.json as the stimulus of the very next clock. -/
def State.withFetchWord (s : State) (nbits w : Nat) : State :=
  { s with stimuli := tableStimulus nbits w :: s.stimuli }

end Sys2Proof.Machine
end

