-- ==== Sys2Proof/Machine/Assembler.lean ====
section
/-! DEFINITION. The assembler of spec/30_encoding.md R82 and the pseudo-instructions of R83: from a
line of text to abstract syntax, and from there to instructions. Spacing, blank lines and the case
of hexadecimal digits are the model's reading (log 14). -/

namespace Sys2Proof.Machine

open Sys2Proof

/-- The 16-bit pattern of hexadecimal digits, most significant first. -/
def hexValue (ds : List (Fin 16)) : Nat := ds.foldl (fun v d => 16 * v + d.val) 0

/-- The Sample a literal stands for (R82). -/
def literalSample : Literal → Sample
  | .dec v => BitVec.ofInt 16 v
  | .hex ds => BitVec.ofNat 16 (hexValue ds)

/-- The instruction of a CYCLE line: its slot terms are the bits t, d, e; a term left out leaves its
fields zero (R79, R82). -/
def cycleLine (t : Option Literal) (d : Bool) (q : Option PhasePair) : Instr :=
  cycleForm d t.isSome q.isSome ((t.map literalSample).getD 0) (q.getD 0)

/-- The instructions of a line, a pseudo-instruction expanded as R83 says. -/
def assembleLine : AsmLine → List Instr
  | .cycle t d q => [cycleLine t d q]
  | .reset ab => [.reset ab]
  | .push s => [.push (literalSample s)]
  | .pop => [.pop]
  | .yawrd => [.yawrd]
  | .scale v => [.scale (literalSample v)]
  | .rep n l => (List.replicate n (assembleLine l)).flatten
  | .ticks ss => ss.map fun s => .tick (literalSample s)
  | .qseq ps => ps.map .qedge
  | .drains n => List.replicate n .drain
  | .feed s => [.tick (literalSample s), .drain]

/-- The text before a comment (R82: `;` starts a comment to the end of the line). -/
def beforeComment (cs : List Char) : List Char := cs.takeWhile fun c => c != ';'

/-- The characters that are tokens by themselves: the joiner of slot terms and the punctuation of
the pseudo-instructions. -/
def isMark (c : Char) : Bool := c == '+' || c == ',' || c == ':'

/-- Cut a line into tokens, reading it from its end: `cur` is the token being read. -/
def tokensAux : List Char → List Char × List (List Char)
  | [] => ([], [])
  | c :: cs =>
    let (cur, done) := tokensAux cs
    let closed := if cur.isEmpty then done else cur :: done
    if c == ' ' || c == '\t' || c == '\r' then ([], closed)
    else if isMark c then ([], [c] :: closed)
    else (c :: cur, done)

/-- The tokens of a line. -/
def tokens (cs : List Char) : List (List Char) :=
  let (cur, done) := tokensAux (beforeComment cs)
  if cur.isEmpty then done else cur :: done

/-- A decimal digit. -/
def decDigit? (c : Char) : Option Nat :=
  if '0'.toNat ≤ c.toNat ∧ c.toNat ≤ '9'.toNat then some (c.toNat - '0'.toNat) else none

/-- A hexadecimal digit, in either case. -/
def hexDigit? (c : Char) : Option (Fin 16) :=
  let v : Option Nat :=
    match decDigit? c with
    | some d => some d
    | none =>
      if 'A'.toNat ≤ c.toNat ∧ c.toNat ≤ 'F'.toNat then some (c.toNat - 'A'.toNat + 10)
      else if 'a'.toNat ≤ c.toNat ∧ c.toNat ≤ 'f'.toNat then some (c.toNat - 'a'.toNat + 10)
      else none
  match v with
  | some d => if h : d < 16 then some ⟨d, h⟩ else none
  | none => none

/-- An unsigned decimal number; at least one digit. -/
def natOf? : List Char → Option Nat
  | [] => none
  | c :: cs => (c :: cs).foldl
      (fun v ch => match v, decDigit? ch with
        | some n, some d => some (10 * n + d)
        | _, _ => none) (some 0)

/-- A list of hexadecimal digits. -/
def hexDigits? : List Char → Option (List (Fin 16))
  | [] => some []
  | c :: cs =>
    match hexDigit? c, hexDigits? cs with
    | some d, some ds => some (d :: ds)
    | _, _ => none

/-- `<s>` or `<v>` (R82). -/
def literal? (t : List Char) : Option Literal :=
  let l : Option Literal :=
    match t with
    | '0' :: 'x' :: ds => (hexDigits? ds).map .hex
    | '-' :: ds => (natOf? ds).map fun n => .dec (-(n : Int))
    | ds => (natOf? ds).map fun n => .dec (n : Int)
  l.bind fun v => if v.wellFormed then some v else none

/-- `<ab>`: "exactly two binary digits, the A digit first" (R82). -/
def pair? (t : List Char) : Option PhasePair :=
  match t with
  | ['0', '0'] => some 0b00
  | ['0', '1'] => some 0b01
  | ['1', '0'] => some 0b10
  | ['1', '1'] => some 0b11
  | _ => none

/-- `TICK <s>`, or an absent term. -/
def tickTerm : List (List Char) → Option (Option Literal × List (List Char))
  | ['T', 'I', 'C', 'K'] :: s :: rest => (literal? s).map fun v => (some v, rest)
  | ts => some (none, ts)

/-- A ` + ` between two slot terms; none is needed before the first. -/
def joiner (first : Bool) : List (List Char) → Option (List (List Char))
  | ['+'] :: rest => if first then none else some rest
  | ts => if first then some ts else none

/-- The slot terms of a CYCLE line "in that order joined by ` + `" (R82). -/
def slotTerms (ts : List (List Char)) : Option AsmLine :=
  (tickTerm ts).bind fun (t, r1) =>
    let d : Option (Bool × List (List Char)) :=
      match joiner t.isNone r1 with
      | some (['D', 'R', 'A', 'I', 'N'] :: rest) => some (true, rest)
      | _ => some (false, r1)
    d.bind fun (dr, r2) =>
      let q : Option (Option PhasePair × List (List Char)) :=
        match joiner (t.isNone && !dr) r2 with
        | some (['Q', 'E', 'D', 'G', 'E'] :: p :: rest) => (pair? p).map fun v => (some v, rest)
        | _ => some (none, r2)
      q.bind fun (qe, r3) =>
        if r3.isEmpty && (t.isSome || dr || qe.isSome) then some (.cycle t dr qe) else none

/-- Literals separated by commas, at least one. -/
def literals? : List (List Char) → Option (List Literal)
  | [] => none
  | [s] => (literal? s).map fun v => [v]
  | s :: c :: rest =>
    if c = [','] then
      match literal? s, literals? rest with
      | some v, some vs => some (v :: vs)
      | _, _ => none
    else none

/-- Phase pairs, at least one. -/
def pairs? : List (List Char) → Option (List PhasePair)
  | [] => none
  | [p] => (pair? p).map fun v => [v]
  | p :: rest =>
    match pair? p, pairs? rest with
    | some v, some vs => some (v :: vs)
    | _, _ => none

/-- One line's tokens, without a leading `REP`. -/
def plainLine (ts : List (List Char)) : Option AsmLine :=
  match ts with
  | [['N', 'O', 'P']] => some (.cycle none false none)
  | [['P', 'O', 'P']] => some .pop
  | [['Y', 'A', 'W', 'R', 'D']] => some .yawrd
  | [['R', 'E', 'S', 'E', 'T'], p] => (pair? p).map .reset
  | [['P', 'U', 'S', 'H'], s] => (literal? s).map .push
  | [['S', 'C', 'A', 'L', 'E'], v] => (literal? v).map .scale
  | [['F', 'E', 'E', 'D'], s] => (literal? s).map .feed
  | [['D', 'R', 'A', 'I', 'N', 'S'], n] => (natOf? n).map .drains
  | ['T', 'I', 'C', 'K', 'S'] :: rest => (literals? rest).map .ticks
  | ['Q', 'S', 'E', 'Q'] :: rest => (pairs? rest).map .qseq
  | _ => slotTerms ts

/-- One line's tokens; `REP n:` may stand before any line (R83). -/
def parseTokens : List (List Char) → Option AsmLine
  | ['R', 'E', 'P'] :: n :: [':'] :: rest =>
    match natOf? n, parseTokens rest with
    | some k, some l => some (.rep k l)
    | _, _ => none
  | ts => plainLine ts

/-- The instructions of one line of text; a line with nothing before its comment has none. -/
def assembleText (cs : List Char) : Option (List Instr) :=
  match tokens cs with
  | [] => some []
  | t :: ts => (parseTokens (t :: ts)).map assembleLine

/-- The instructions of a text of several lines, in order. -/
def assembleLines : List (List Char) → Option (List Instr)
  | [] => some []
  | l :: ls =>
    match assembleText l, assembleLines ls with
    | some is, some rest => some (is ++ rest)
    | _, _ => none

end Sys2Proof.Machine
end

