-- ==== Sys2Proof/Machine/Program.lean ====
section
/-! DEFINITION. Programs and their output trace (spec/45_cycle_step.md R195). The end of a program
says nothing of the hardware. -/

namespace Sys2Proof.Machine

open Sys2Proof

/-- The state with a list of command words queued, one per clock. -/
def State.loadWords (s : State) (ws : List CommandWord) : State :=
  { s with stimuli := ws.map fun w => .word (commandBytes w) }

/-- R195: a program begins with a RESET word, and none of its words is reserved (R80). -/
def isProgram (ws : List CommandWord) : Bool :=
  match ws with
  | [] => false
  | w :: _ => decide (fieldClass w = 0b001#3) && ws.all fun v => !commandReserved v

/-- The record of the last clock, with the index of the word that emitted it. -/
def State.traceEntry (index : Nat) (s : State) : List (Nat × OutRecord) :=
  match s.outputs.record with
  | some r => [(index, r)]
  | none => []

/-- `steps` clocks from `s`, the first one numbered `index`: the end state and the output trace. -/
def runTrace : Nat → Nat → State → Host.Outcome (State × List (Nat × OutRecord)) Fault Refusal
  | 0, _, s => .next (s, [])
  | steps + 1, index, s =>
    match step s with
    | .next t =>
      match runTrace steps (index + 1) t with
      | .next (e, trace) => .next (e, t.traceEntry index ++ trace)
      | .fault f => .fault f
      | .refused r => .refused r
    | .fault f => .fault f
    | .refused r => .refused r

/-- The end state and the output trace of a program, its words numbered from 0. -/
def runProgram (s : State) (ws : List CommandWord) :
    Host.Outcome (State × List (Nat × OutRecord)) Fault Refusal :=
  runTrace ws.length 0 (s.loadWords ws)

end Sys2Proof.Machine
end

