-- ==== Sys2Proof/Machine/Wiring.lean ====
section
/-! DEFINITION. The block as its sub-blocks joined by the signals of spec/30_encoding.md R72: each
sub-block's next registers from the signals that reach it. A second account of one clock, beside
CYCLE (spec/45_cycle_step.md R192); that the two agree is a statement. -/

namespace Sys2Proof.Machine

open Sys2Proof

/-- The signals of R72 in one clock. -/
structure Wires where
  pushEn : Bool
  pushData : Sample
  popEn : Bool
  popValid : Bool
  popData : Sample
  avgValid : Bool
  avg : Sample
  deriving DecidableEq, Repr

/-- R122: `push_en = tick`. -/
def pushEnable (p : Inputs) : Bool := p.tick

/-- R122: `pop_en = drain_en and not tick`. -/
def popEnable (p : Inputs) : Bool := p.drainEn && !p.tick

/-- The equations of R72. -/
def wiresOf (p : Params) (clock : Nat) (i : Inputs) (b : Block) : Wires :=
  let popValid := popEnable i && decide (b.count > 0)
  let popData := Memory.read b.mem clock b.rd
  { pushEn := pushEnable i
    pushData := i.sampleIn
    popEn := popEnable i
    popValid := popValid
    popData := popData
    avgValid := popValid && decide (b.k = p.n - 1)
    avg := wrapS 16 (quot (b.acc.toInt + sext popData) p.n) }

/-- `sample_ring_buffer`: the next `mem`, `wr`, `rd`, `count` (R101, R102). -/
def ringNext (n : Nat) (w : Wires) (b : Block) : Memory × Nat × Nat × Nat :=
  if w.pushEn then
    (Memory.write b.mem b.wr w.pushData, nextIndex n b.wr,
      if b.count = n then nextIndex n b.rd else b.rd, if b.count = n then b.count else b.count + 1)
  else if w.popValid then (b.mem, b.wr, nextIndex n b.rd, b.count - 1)
  else (b.mem, b.wr, b.rd, b.count)

/-- `periodic_sampler_arbiter`: the next `sample_count` (R120). -/
def samplerNext (w : Wires) (b : Block) : BitVec 32 :=
  if w.pushEn then wrapU 32 (b.sampleCount.toNat + 1) else b.sampleCount

/-- `moving_average_engine`: the next `acc` and `k` (R136). -/
def engineNext (w : Wires) (b : Block) : BitVec 32 × Nat :=
  if w.avgValid then (0, 0)
  else if w.popValid then (wrapS 32 (b.acc.toInt + sext w.popData), b.k + 1)
  else (b.acc, b.k)

/-- `quadrature_decoder_sm`: the next `yaw` and `prev_ab` (R171). -/
def decoderNext (i : Inputs) (b : Block) : BitVec 32 × PhasePair :=
  let ab : PhasePair := BitVec.ofBool i.a ++ BitVec.ofBool i.b
  if i.edgeValid then (wrapS 32 (b.yaw.toInt + qdelta (keyOf b.prevAb ab)), ab)
  else (b.yaw, b.prevAb)

/-- `linear_scaler_with_clamp`: `out_valid = avg_valid`, and the record (R72, R156, R158). -/
def scalerOut (p : Params) (w : Wires) (b : Block) : Option OutRecord :=
  if w.avgValid then
    some { pwmFreq := p.pwmFreq, duty := dutyPort p w.avg, altitude := w.avg,
           altPercent := pctPort p w.avg, yaw := b.yaw, sampleCount := b.sampleCount }
  else none

/-- One clock with `rst = 0` of the joined sub-blocks. -/
def wiredClock (p : Params) (clock : Nat) (i : Inputs) (b : Block) : Block × Option OutRecord :=
  let w := wiresOf p clock i b
  let ring := ringNext p.n w b
  let engine := engineNext w b
  let decoder := decoderNext i b
  ({ mem := ring.1, wr := ring.2.1, rd := ring.2.2.1, count := ring.2.2.2,
     sampleCount := samplerNext w b, acc := engine.1, k := engine.2, yaw := decoder.1,
     prevAb := decoder.2 }, scalerOut p w b)

end Sys2Proof.Machine
end

