-- ==== Sys2Proof/Safety.lean ====
section
/-! DEFINITION. What a good state and a safe run are, in the terms the statements use: the invariants
of spec/45_cycle_step.md R197, the unread samples as a queue (spec/10_state.md R25), runs of
instructions and what they push, pop, drain and count. -/

namespace Sys2Proof.Machine

open Sys2Proof

/-- The buffer invariant (R25). -/
def Block.bufferOk (n : Nat) (b : Block) : Prop :=
  b.count ≤ n ∧ b.wr < n ∧ b.rd < n ∧ b.wr = (b.rd + b.count) % n

/-- Every unread entry has been written by a PUSH since RESET (R21, R25). -/
def Block.unreadWritten (n : Nat) (b : Block) : Prop :=
  ∀ j, j < b.count → (Memory.read? b.mem ((b.rd + j) % n)).isSome = true

/-- The control cycle's position and the bounds of the running sum (R27, R28, R197 b and c). -/
def Block.cycleOk (n : Nat) (b : Block) : Prop :=
  b.k < n ∧ -32768 * (b.k : Int) ≤ b.acc.toInt ∧ b.acc.toInt ≤ 32767 * (b.k : Int)

/-- The storage: canonical form, and only entries of the address space (R35). -/
def Block.storageOk (n : Nat) (b : Block) : Prop :=
  Memory.wf b.mem = true ∧ Memory.within n b.mem = true

/-- What every OUT record satisfies (R71, R197 d); `altitude` is in the range of a Sample by its
type. -/
def Outputs.recordOk (p : Params) (o : Outputs) : Prop :=
  ∀ r, o.record = some r →
    (5 ≤ r.duty.toNat ∧ r.duty.toNat ≤ 95) ∧ (r.duty.toNat : Int) = duty p r.altitude ∧
      r.altPercent.toInt = pct p r.altitude ∧ r.pwmFreq = p.pwmFreq ∧ r.yaw = o.yawOut ∧
      r.sampleCount = o.sampleCountOut

/-- The invariant of a block that has been reset: legal parameters, R25, R27, R28, R197 (a) to (d). -/
structure State.Inv (s : State) : Prop where
  legal : s.params.legal = true
  storage : s.block.storageOk s.params.n
  buffer : s.block.bufferOk s.params.n
  written : s.block.unreadWritten s.params.n
  cycle : s.block.cycleOk s.params.n
  ports : s.outputs.recordOk s.params

/-- The unread samples, oldest first (R25); an entry no PUSH has written shows as none. -/
def Block.unread (n : Nat) (b : Block) : List (Option Sample) :=
  (List.range b.count).map fun j => Memory.read? b.mem ((b.rd + j) % n)

/-- A queue of capacity `n` that drops its oldest element when full: what the buffer is for its two
users (R59 d, R101). -/
def queuePush (n : Nat) (x : Sample) (q : List (Option Sample)) : List (Option Sample) :=
  if q.length = n then q.tail ++ [some x] else q ++ [some x]

/-- `s` after a clock that left the block as `b`, emitted `o` and returned `r`: the continuous ports
show what stood in `s` (R71), and nothing else changes. -/
def State.after (s : State) (b : Block) (o : Option OutRecord) (r : Response) : State :=
  { s with
    block := b
    outputs := { pwmFreq := s.params.pwmFreq, yawOut := s.block.yaw,
                 sampleCountOut := s.block.sampleCount, record := o }
    response := r }

/-- The instructions of a list, one after another. -/
def runInstrs : List Instr → State → Host.Outcome State Fault Refusal
  | [], s => .next s
  | i :: rest, s =>
    match exec i s with
    | .next t => runInstrs rest t
    | .fault f => .fault f
    | .refused r => .refused r

/-- `f` collected over a run: what it says of each instruction and the state it starts in. -/
def collect {α : Type} (f : Instr → State → List α) : List Instr → State → List α
  | [], _ => []
  | i :: rest, s =>
    f i s ++
      match exec i s with
      | .next t => collect f rest t
      | _ => []

/-- The sample an instruction pushes (R196: TICK forms and PUSH). -/
def pushedBy : Instr → State → List Sample
  | .tick x, _ => [x]
  | .tickQedge x _, _ => [x]
  | .tickDrain x, _ => [x]
  | .tickDrainQedge x _, _ => [x]
  | .push x, _ => [x]
  | _, _ => []

/-- The sample that a POP in this state returns, if any. -/
def popResult (s : State) : List Sample :=
  match pop s.params.n s.clock s.block with
  | .ok (some x, _) => [x]
  | _ => []

/-- The sample a granted poll of the engine receives (R136). -/
def drainedBy : Instr → State → List Sample
  | .drain, s => popResult s
  | .drainQedge _, s => popResult s
  | _, _ => []

/-- The sample an instruction takes out of the buffer: the engine's polls and test-access POP. -/
def poppedBy : Instr → State → List Sample
  | .drain, s => popResult s
  | .drainQedge _, s => popResult s
  | .pop, s => popResult s
  | _, _ => []

/-- One entry for each PUSH that finds the buffer full (R101). -/
def overflowBy (i : Instr) (s : State) : List Unit :=
  (pushedBy i s).flatMap fun _ => if s.block.full s.params.n then [()] else []

/-- The OUT record an instruction emits. -/
def recordBy (i : Instr) (s : State) : List OutRecord :=
  match exec i s with
  | .next t => t.outputs.record.toList
  | _ => []

/-- The previous and new pair of a row of the transition table. -/
def rowOf? : Instr → Option (PhasePair × PhasePair)
  | .qkey0000 => some (0b00, 0b00)
  | .qkey0001 => some (0b00, 0b01)
  | .qkey0010 => some (0b00, 0b10)
  | .qkey0011 => some (0b00, 0b11)
  | .qkey0100 => some (0b01, 0b00)
  | .qkey0101 => some (0b01, 0b01)
  | .qkey0110 => some (0b01, 0b10)
  | .qkey0111 => some (0b01, 0b11)
  | .qkey1000 => some (0b10, 0b00)
  | .qkey1001 => some (0b10, 0b01)
  | .qkey1010 => some (0b10, 0b10)
  | .qkey1011 => some (0b10, 0b11)
  | .qkey1100 => some (0b11, 0b00)
  | .qkey1101 => some (0b11, 0b01)
  | .qkey1110 => some (0b11, 0b10)
  | .qkey1111 => some (0b11, 0b11)
  | _ => none

/-- The pair that an instruction presents to the decoder when its previous pair is `prev`: the
QEDGE slot's, or a selected row's. -/
def pairFor (i : Instr) (prev : PhasePair) : Option PhasePair :=
  match i with
  | .qedge ab => some ab
  | .tickQedge _ ab => some ab
  | .drainQedge ab => some ab
  | .tickDrainQedge _ ab => some ab
  | j =>
    match rowOf? j with
    | some (p, ab) => if prev = p then some ab else none
    | none => none

/-- Forward steps minus reverse steps of a list of instructions, from previous pair `prev`
(R173 a, R197 f). -/
def netSteps : PhasePair → List Instr → Int
  | _, [] => 0
  | prev, i :: rest =>
    match pairFor i prev with
    | some ab => qdelta (keyOf prev ab) + netSteps ab rest
    | none => netSteps prev rest

/-- The pair last presented to the decoder, or the pair at the start (R197 f). -/
def lastPair : PhasePair → List Instr → PhasePair
  | prev, [] => prev
  | prev, i :: rest => lastPair ((pairFor i prev).getD prev) rest

/-- A RESET. -/
def isReset : Instr → Bool
  | .reset _ => true
  | _ => false

/-- The instruction stores to `mem`: it performs a PUSH (R50). -/
def stores : Instr → Bool
  | .tick _ => true
  | .tickQedge _ _ => true
  | .tickDrain _ => true
  | .tickDrainQedge _ _ => true
  | .push _ => true
  | _ => false

/-- The instruction performs DRAIN: the engine's poll is granted (R122). -/
def drains : Instr → Bool
  | .drain => true
  | .drainQedge _ => true
  | _ => false

/-- The instruction takes a sample from the buffer when there is one. -/
def pops : Instr → Bool
  | .drain => true
  | .drainQedge _ => true
  | .pop => true
  | _ => false

/-- The instruction is a firing of the sampler (R120). -/
def ticks : Instr → Bool
  | .tick _ => true
  | .tickQedge _ _ => true
  | .tickDrain _ => true
  | .tickDrainQedge _ _ => true
  | _ => false

/-- The instruction can reach the decoder: it has a QEDGE slot or is a row of the table. -/
def reachesDecoder : Instr → Bool
  | .qedge _ => true
  | .tickQedge _ _ => true
  | .drainQedge _ => true
  | .tickDrainQedge _ _ => true
  | i => (rowOf? i).isSome

/-- What reaches the decoder in one clock: a RESET with its levels, a pair that a QEDGE slot presents, or
a row of the transition table (presenting rows is the model's, log 7). -/
inductive DecoderEvent where
  | reset (ab0 : PhasePair)
  | pair (ab : PhasePair)
  | row (prev ab : PhasePair)
  deriving DecidableEq, Repr

/-- The decoder's event in the clock of an instruction, if there is one. -/
def decoderEvents (i : Instr) : List DecoderEvent :=
  match i with
  | .reset ab0 => [.reset ab0]
  | .qedge ab => [.pair ab]
  | .tickQedge _ ab => [.pair ab]
  | .drainQedge ab => [.pair ab]
  | .tickDrainQedge _ ab => [.pair ab]
  | j => (rowOf? j).toList.map fun r => .row r.1 r.2

/-- The forward cycle `00→01→11→10→00` (R170), read from each of its four places. -/
def forwardCycles : List (PhasePair × PhasePair × PhasePair × PhasePair) :=
  [(0b00, 0b01, 0b11, 0b10), (0b01, 0b11, 0b10, 0b00), (0b11, 0b10, 0b00, 0b01),
    (0b10, 0b00, 0b01, 0b11)]

/-- The atomic operations of an instruction in their order, as single-slot instructions (R193, R194:
slot 1 before slot 2). -/
def serial : Instr → List Instr
  | .tickQedge x ab => [.tick x, .qedge ab]
  | .drainQedge ab => [.drain, .qedge ab]
  | .tickDrain x => [.tick x]
  | .tickDrainQedge x ab => [.tick x, .qedge ab]
  | i => [i]

/-- If a word stands next in the queue, it is a word of the opcode table and not reserved. -/
def State.nextIsWord (s : State) : Prop :=
  ∀ bytes rest, s.stimuli = .word bytes :: rest → ∃ i, decode bytes = .ok i

end Sys2Proof.Machine
end

