-- ==== Sys2Proof/Certificates/Slice0/Obligations.lean ====
section
/-! DEFINITION. The statements for the provers. Every statement about an instruction quantifies over the
parameters, which stand in the state; none rests on a value of a free constant of Config. -/

open Sys2Proof Sys2Proof.Machine

/-! ## Encodings -/

/-- R74, R75, R77: decoding the encoding of an instruction gives it back, every operand at every
value. -/
def Obligations.EncodeThenDecodeIsIdentity : Prop :=
  ∀ i : Instr, i.wellFormed = true → decode (encode i) = .ok i

/-- The other direction: a command word that decodes is the encoding of its instruction, but for the
fields a CYCLE form does not read, which the encoding writes as zeros (R79). -/
def Obligations.DecodedWordsReencode : Prop :=
  ∀ (w : CommandWord) (i : Instr), decodeCommand w = .ok i →
    encode i = commandBytes (if fieldClass w = 0 then canonicalCycle w else w)

/-- R80: exactly the reserved words are refused. -/
def Obligations.ReservedWordsAreRefused : Prop :=
  (∀ w : CommandWord,
    (commandReserved w = true ↔
      (fieldClass w = 0b110#3 ∨ fieldClass w = 0b111#3 ∨
        (fieldClass w = 0b001#3 ∧ (w.extractLsb' 18 3 ≠ 0 ∨ w.extractLsb' 0 16 ≠ 0)) ∨
        ((fieldClass w = 0b010#3 ∨ fieldClass w = 0b101#3) ∧ w.extractLsb' 16 5 ≠ 0) ∨
        ((fieldClass w = 0b011#3 ∨ fieldClass w = 0b100#3) ∧ w.extractLsb' 0 21 ≠ 0))) ∧
    ((∃ r, decode (commandBytes w) = .error r) ↔ commandReserved w = true)) ∧
  ∀ (s : State) (w : CommandWord) (rest : List Stimulus),
    s.stimuli = .word (commandBytes w) :: rest → commandReserved w = true →
      ∃ r, step s = .refused (.reservedWord r)

/-- R75: a word that is not reserved matches exactly one row of R74 and R75, the row of the
instruction it decodes to; a reserved word matches none. -/
def Obligations.EveryWordMatchesOneRowOrIsReserved : Prop :=
  ∀ w : CommandWord,
    (commandReserved w = true → opcodeRows.filter (·.isRowOf w) = []) ∧
    (commandReserved w = false → ∃ r i, opcodeRows.filter (·.isRowOf w) = [r] ∧
      decodeCommand w = .ok i ∧ i.mnemonic = r.mnemonic)

/-- R79: two CYCLE words that agree on the slot bits and on the fields their form reads are the same
instruction. -/
def Obligations.IgnoredFieldsDoNotMatter : Prop :=
  ∀ w v : CommandWord, fieldClass w = 0 → fieldClass v = 0 → fieldD w = fieldD v →
    fieldT w = fieldT v → fieldE w = fieldE v → (fieldT w = true → fieldS w = fieldS v) →
    (fieldE w = true → fieldAb w = fieldAb v) → decodeCommand w = decodeCommand v

/-- R77: the key `prev_ab ++ ab` has the previous pair in bits 3:2 and the new one in bits 1:0, and
is decoded to the row of those two pairs. -/
def Obligations.KeysNameTheirRow : Prop :=
  ∀ prev ab : PhasePair, (keyOf prev ab).extractLsb' 2 2 = prev ∧
    (keyOf prev ab).extractLsb' 0 2 = ab ∧
    ∃ i, decode (keyBytes (keyOf prev ab)) = .ok i ∧ rowOf? i = some (prev, ab)

/-- Words of R78 and of the opcode table, written out, decode to what they stand for. -/
def Obligations.WrittenWordsDecode : Prop :=
  decodeTableWord 24 0x080064 = some (.tick 100) ∧
  decodeTableWord 24 0x08FFFF = some (.tick (-1)) ∧
  decodeTableWord 24 0x060000 = some (.qedge 0b10) ∧
  decodeTableWord 24 0x180032 = some (.tickDrain 50) ∧
  decodeTableWord 24 0x230000 = some (.reset 0b11) ∧
  decodeTableWord 24 0x400005 = some (.push 5) ∧
  decodeTableWord 24 0x600000 = some .pop ∧
  decodeTableWord 24 0x800000 = some .yawrd ∧
  decodeTableWord 24 0xA0007D = some (.scale 125) ∧
  decodeTableWord 8 0xD = some .qkey1101

/-! ## The step -/

/-- A clock performs the instruction its stimulus stands for, on the state in which the stimulus is
taken and the clock counted; with nothing queued, the input ports carry the environment's free
values (log 5). -/
def Obligations.StepRunsTheStimulus : Prop :=
  ∀ (s : State) (rest : List Stimulus),
    (∀ bytes i, s.stimuli = .word bytes :: rest → decode bytes = .ok i →
      step s = exec i { s with stimuli := rest, clock := s.clock + 1 }) ∧
    (∀ p, s.stimuli = .ports p :: rest →
      step s = exec p.toInstr { s with stimuli := rest, clock := s.clock + 1 }) ∧
    (s.stimuli = [] →
      step s = exec (Config.envInputs s.clock).toInstr { s with clock := s.clock + 1 })

/-- R190 (a), R240: a clock with `rst = 1` performs RESET(a ++ b) and nothing else, whatever the
other ports carry; `out_valid = 0`, and the continuous ports still show the values from before it
(R242). After it no entry of `mem` is known (log 3). -/
def Obligations.ResetPortOverridesTheOthers : Prop :=
  ∀ (s : State) (p : Inputs) (rest : List Stimulus), s.params.legal = true →
    s.stimuli = .ports p :: rest → p.rst = true →
    step s = .next (({ s with stimuli := rest, clock := s.clock + 1 } : State).after
      { mem := [], wr := 0, rd := 0, count := 0, sampleCount := 0, acc := 0, k := 0, yaw := 0,
        prevAb := BitVec.ofBool p.a ++ BitVec.ofBool p.b } none .none)

/-- R192: a clock with `rst = 0` is CYCLE of the port values; the row of R193 that they select gives
the same outcome. -/
def Obligations.PortClockIsCycle : Prop :=
  ∀ (s : State) (p : Inputs) (rest : List Stimulus), s.stimuli = .ports p :: rest →
    p.rst = false →
    step s = State.complete { s with stimuli := rest, clock := s.clock + 1 }
      (clockCycle s.params (s.clock + 1) p.drainEn p.tick p.edgeValid
        (BitVec.ofBool p.a ++ BitVec.ofBool p.b) p.sampleIn s.block) .none

/-- R72, R122: the sub-blocks joined by their signals perform, in one clock, what CYCLE does; and
the producer and the consumer never have the buffer together. -/
def Obligations.JoinedSubBlocksPerformCycle : Prop :=
  ∀ (p : Params) (clock : Nat) (i : Inputs) (b : Block), b.wr < p.n → b.rd < p.n →
    clockCycle p clock i.drainEn i.tick i.edgeValid (BitVec.ofBool i.a ++ BitVec.ofBool i.b)
        i.sampleIn b = .ok (wiredClock p clock i b) ∧
    ¬ ((wiresOf p clock i b).pushEn = true ∧ (wiresOf p clock i b).popEn = true)

/-- R25, R27, R28, R197 (a) to (d): every clock keeps the invariant. -/
def Obligations.StepKeepsTheInvariant : Prop :=
  ∀ s t : State, s.Inv → step s = .next t → t.Inv

/-- The invariant holds right after reset, for all legal parameters and phase levels, and so of
`State.reset`. -/
def Obligations.ResetMeetsTheInvariant : Prop :=
  (∀ (p : Params) (ab : PhasePair), p.legal = true → (State.resetWith p ab).Inv) ∧
  State.reset.Inv

/-- R210: from a good state no clock faults and none is refused, unless the word presented is not a
word of the table. -/
def Obligations.TheBlockNeverStops : Prop :=
  ∀ s : State, s.Inv → s.nextIsWord → ∃ t, step s = .next t

/-- R210: every instruction completes in a good state. -/
def Obligations.EveryInstructionCompletes : Prop :=
  ∀ (i : Instr) (s : State), s.Inv → ∃ t, exec i s = .next t ∧ t.Inv

/-- A clock leaves the parameters as they are (R20: they never change after the block is built),
takes one stimulus and is counted once. -/
def Obligations.StepKeepsTheParameters : Prop :=
  ∀ s t : State, step s = .next t →
    t.params = s.params ∧ t.stimuli = s.stimuli.tail ∧ t.clock = s.clock + 1

/-- R7: which parameters are legal, and that every instruction of a block with others is refused. -/
def Obligations.IllegalParametersAreRefused : Prop :=
  (∀ p : Params, p.legal = true ↔
    (1 ≤ p.n ∧ p.n ≤ 65536 ∧ p.inMin.toInt < p.inMax.toInt ∧ p.scaleNum ≤ 32767 ∧
      1 ≤ p.scaleDen ∧ p.scaleDen ≤ 32767)) ∧
  ∀ (i : Instr) (s : State), s.params.legal = false → exec i s = .refused .illegalParameters

/-! ## Results, instruction by instruction -/

/-- R190: RESET(ab0). The one thing said of `mem` is that no entry is known (log 3). -/
def Obligations.ResetSetsEveryRegister : Prop :=
  ∀ (ab : PhasePair) (s : State), s.params.legal = true →
    exec (.reset ab) s = .next (s.after
      { mem := [], wr := 0, rd := 0, count := 0, sampleCount := 0, acc := 0, k := 0, yaw := 0,
        prevAb := ab } none .none)

/-- R193: NOP leaves all nine items as they are. -/
def Obligations.NopChangesNothing : Prop :=
  ∀ s : State, s.params.legal = true → exec .nop s = .next (s.after s.block none .none)

/-- R171: QEDGE(ab). -/
def Obligations.QedgeMovesYawAndPair : Prop :=
  ∀ (ab : PhasePair) (s : State), s.params.legal = true →
    exec (.qedge ab) s = .next (s.after
      { s.block with
        yaw := BitVec.ofInt 32 (s.block.yaw.toInt + qdelta (s.block.prevAb ++ ab))
        prevAb := ab } none .none)

/-- R120: TICK(s), full buffer or not. -/
def Obligations.TickPushesAndCounts : Prop :=
  ∀ (x : Sample) (s : State), s.params.legal = true → s.block.wr < s.params.n →
    exec (.tick x) s = .next (s.after
      { s.block with
        mem := Memory.write s.block.mem s.block.wr x
        wr := (s.block.wr + 1) % s.params.n
        rd := if s.block.count = s.params.n then (s.block.rd + 1) % s.params.n else s.block.rd
        count := if s.block.count = s.params.n then s.params.n else s.block.count + 1
        sampleCount := BitVec.ofNat 32 (s.block.sampleCount.toNat + 1) } none .none)

/-- R136: DRAIN: an idle poll, a sample accumulated, or the N-th sample and the record. -/
def Obligations.DrainPollsAccumulatesEmits : Prop :=
  ∀ s : State, s.params.legal = true →
    (s.block.count = 0 → exec .drain s = .next (s.after s.block none .none)) ∧
    (s.block.count ≠ 0 → s.block.rd < s.params.n → s.block.k ≠ s.params.n - 1 →
      exec .drain s = .next (s.after
        { s.block with
          rd := (s.block.rd + 1) % s.params.n
          count := s.block.count - 1
          acc := BitVec.ofInt 32
            (s.block.acc.toInt + (Memory.read s.block.mem s.clock s.block.rd).toInt)
          k := s.block.k + 1 } none .none)) ∧
    (s.block.count ≠ 0 → s.block.rd < s.params.n → s.block.k = s.params.n - 1 →
      ∀ a : Sample, a = BitVec.ofInt 16
        ((s.block.acc.toInt + (Memory.read s.block.mem s.clock s.block.rd).toInt).tdiv
          s.params.n) →
      exec .drain s = .next (s.after
        { s.block with
          rd := (s.block.rd + 1) % s.params.n
          count := s.block.count - 1
          acc := 0
          k := 0 }
        (some { pwmFreq := s.params.pwmFreq, duty := BitVec.ofInt 7 (duty s.params a),
                altitude := a, altPercent := BitVec.ofInt 32 (pct s.params a),
                yaw := s.block.yaw, sampleCount := s.block.sampleCount }) .none))

/-- R193: the eight forms are the eight rows of its table; in a block whose indices are entries,
each completes; a word with t = 1 does what it does with d = 0. -/
def Obligations.CycleFormsAreTheirTableRows : Prop :=
  ∀ (x : Sample) (ab : PhasePair) (s : State), s.params.legal = true →
    s.block.wr < s.params.n → s.block.rd < s.params.n →
    ∃ bt bd o, tick s.params.n x s.block = .ok bt ∧
      drain s.params s.clock s.block = .ok (bd, o) ∧
      exec .nop s = .next (s.after s.block none .none) ∧
      exec (.qedge ab) s = .next (s.after (qedge ab s.block) none .none) ∧
      exec (.tick x) s = .next (s.after bt none .none) ∧
      exec (.tickQedge x ab) s = .next (s.after (qedge ab bt) none .none) ∧
      exec .drain s = .next (s.after bd o .none) ∧
      exec (.drainQedge ab) s = .next (s.after (qedge ab bd) o .none) ∧
      exec (.tickDrain x) s = exec (.tick x) s ∧
      exec (.tickDrainQedge x ab) s = exec (.tickQedge x ab) s

/-- R101: PUSH(s). -/
def Obligations.PushStoresAndAdvances : Prop :=
  ∀ (x : Sample) (s : State), s.params.legal = true → s.block.wr < s.params.n →
    exec (.push x) s = .next (s.after
      { s.block with
        mem := Memory.write s.block.mem s.block.wr x
        wr := (s.block.wr + 1) % s.params.n
        rd := if s.block.count = s.params.n then (s.block.rd + 1) % s.params.n else s.block.rd
        count := if s.block.count = s.params.n then s.params.n else s.block.count + 1 }
      none .none)

/-- R102: POP: `none` and no change on an empty buffer, else the entry at `rd`. -/
def Obligations.PopReturnsTheOldest : Prop :=
  ∀ s : State, s.params.legal = true →
    (s.block.count = 0 → exec .pop s = .next (s.after s.block none (.popped none))) ∧
    (s.block.count ≠ 0 → s.block.rd < s.params.n →
      exec .pop s = .next (s.after
        { s.block with rd := (s.block.rd + 1) % s.params.n, count := s.block.count - 1 }
        none (.popped (some (Memory.read s.block.mem s.clock s.block.rd)))))

/-- R174: YAWRD returns `yaw` and writes nothing; and `yaw_out` carries `yaw` in every clock, in a
clock with a QEDGE the value before it. -/
def Obligations.YawrdReturnsYaw : Prop :=
  ∀ s : State, (s.params.legal = true →
    exec .yawrd s = .next (s.after s.block none (.yaw s.block.yaw))) ∧
    ∀ (i : Instr) (t : State), exec i s = .next t → t.outputs.yawOut = s.block.yaw

/-- R157: SCALE(v) returns `(PCT(v), DUTY(v))` and writes nothing. -/
def Obligations.ScaleReturnsPercentAndDuty : Prop :=
  ∀ (v : Sample) (s : State), s.params.legal = true →
    ∃ (pc : BitVec 32) (du : BitVec 7),
      pc.toInt = (v.toInt * s.params.scaleNum).tdiv s.params.scaleDen ∧
      (du.toNat : Int) = clamp (5 + ((v.toInt - s.params.inMin.toInt) * 90).tdiv
        (s.params.inMax.toInt - s.params.inMin.toInt)) 5 95 ∧
      exec (.scale v) s = .next (s.after s.block none (.scaled pc du))

/-- R170, R171: a row of the transition table, presented when its previous pair is `prev_ab`, moves
`yaw` by QDELTA of its key and the pair follows. That QDELTA is also returned is the model's
(log 7). -/
def Obligations.SelectedRowsStepTheDecoder : Prop :=
  ∀ (i : Instr) (prev ab : PhasePair) (s : State), rowOf? i = some (prev, ab) →
    s.params.legal = true → s.block.prevAb = prev →
    exec i s = .next (s.after
      { s.block with
        yaw := BitVec.ofInt 32 (s.block.yaw.toInt + qdelta (prev ++ ab))
        prevAb := ab } none (.qdelta (qdelta (prev ++ ab))))

/-- R171: of the sixteen rows, QEDGE(ab) is the one that `prev_ab ++ ab` names. -/
def Obligations.QedgeIsTheSelectedRow : Prop :=
  ∀ (ab : PhasePair) (s : State), ∃ i, decode (keyBytes (s.block.prevAb ++ ab)) = .ok i ∧
    ∀ t, exec (.qedge ab) s = .next t ↔
      ∃ u, exec i s = .next u ∧ t = { u with response := .none }

/-- The model's choice (log 7): a row whose previous pair is not `prev_ab` changes nothing. -/
def Obligations.UnselectedRowsChangeNothing : Prop :=
  ∀ (i : Instr) (prev ab : PhasePair) (s : State), rowOf? i = some (prev, ab) →
    s.params.legal = true → s.block.prevAb ≠ prev →
    exec i s = .next (s.after s.block none (.qdelta (qdelta (prev ++ ab))))

/-- The model's choice (log 8): an index that is no entry stops a PUSH, and a POP that would read;
no reachable state has one (R51). -/
def Obligations.AccessOutsideTheStorageFaults : Prop :=
  ∀ (i : Instr) (s : State), s.params.legal = true →
    (stores i = true → ¬ s.block.wr < s.params.n →
      exec i s = .fault (.noSuchEntry s.block.wr)) ∧
    (pops i = true → s.block.count ≠ 0 → ¬ s.block.rd < s.params.n →
      exec i s = .fault (.noSuchEntry s.block.rd))

/-! ## Frames -/

/-- A form that stores nothing leaves every entry and the write index as they are: all but the TICK
forms, PUSH and RESET. -/
def Obligations.NonStoringFormsLeaveTheStorage : Prop :=
  ∀ (i : Instr) (s t : State), stores i = false → isReset i = false → exec i s = .next t →
    (∀ a, Memory.read? t.block.mem a = Memory.read? s.block.mem a) ∧ t.block.wr = s.block.wr

/-- R50, R51: a form that performs a PUSH stores its sample at the old `wr` and leaves every other
entry as it is. -/
def Obligations.StoringFormsWriteOnlyTheirEntry : Prop :=
  ∀ (i : Instr) (s t : State), stores i = true → exec i s = .next t →
    (∃ x, pushedBy i s = [x] ∧ Memory.read? t.block.mem s.block.wr = some x) ∧
    ∀ a, a ≠ s.block.wr → Memory.read? t.block.mem a = Memory.read? s.block.mem a

/-- R37: each register changes only under its writers. RESET writes all of them. -/
def Obligations.RegistersChangeOnlyUnderTheirWriters : Prop :=
  ∀ (i : Instr) (s t : State), isReset i = false → exec i s = .next t →
    (stores i = false → t.block.mem = s.block.mem ∧ t.block.wr = s.block.wr) ∧
    (pops i = false → (stores i = false ∨ s.block.count ≠ s.params.n) →
      t.block.rd = s.block.rd) ∧
    (pops i = false → stores i = false → t.block.count = s.block.count) ∧
    (ticks i = false → t.block.sampleCount = s.block.sampleCount) ∧
    (drains i = false → t.block.acc = s.block.acc ∧ t.block.k = s.block.k) ∧
    (reachesDecoder i = false → t.block.yaw = s.block.yaw ∧ t.block.prevAb = s.block.prevAb)

/-- R57, R71, R253: in every clock `yaw_out` and `sample_count_out` show the registers from before
it, and `pwm_freq` the parameter; a record carries the same three values. -/
def Obligations.PortsShowTheStartOfTheClock : Prop :=
  ∀ (i : Instr) (s t : State), exec i s = .next t →
    t.outputs.yawOut = s.block.yaw ∧ t.outputs.sampleCountOut = s.block.sampleCount ∧
    t.outputs.pwmFreq = s.params.pwmFreq ∧
    ∀ r, t.outputs.record = some r → r.yaw = s.block.yaw ∧
      r.sampleCount = s.block.sampleCount ∧ r.pwmFreq = s.params.pwmFreq

/-- R71, R136: `out_valid = 1` exactly in a clock in which a granted poll receives the N-th sample
of a control cycle. -/
def Obligations.OutValidExactlyOnTheNthSample : Prop :=
  ∀ (i : Instr) (s t : State), exec i s = .next t →
    (t.outValid = true ↔
      drains i = true ∧ s.block.count ≠ 0 ∧ s.block.k = s.params.n - 1)

/-- R39, R71: while `out_valid = 1` the data ports carry the record. -/
def Obligations.ValidPortsCarryTheRecord : Prop :=
  ∀ (s : State) (r : OutRecord), s.outputs.record = some r →
    s.outValid = true ∧ s.dutyPort = r.duty ∧ s.altitudePort = r.altitude ∧
      s.altPercentPort = r.altPercent

/-! ## The decoder -/

/-- R170: the sixteen rows, and the formula. -/
def Obligations.QdeltaIsTheTable : Prop :=
  (qdelta 0b0000 = 0 ∧ qdelta 0b0001 = 1 ∧ qdelta 0b0010 = -1 ∧ qdelta 0b0011 = 0 ∧
    qdelta 0b0100 = -1 ∧ qdelta 0b0101 = 0 ∧ qdelta 0b0110 = 0 ∧ qdelta 0b0111 = 1 ∧
    qdelta 0b1000 = 1 ∧ qdelta 0b1001 = 0 ∧ qdelta 0b1010 = 0 ∧ qdelta 0b1011 = -1 ∧
    qdelta 0b1100 = 0 ∧ qdelta 0b1101 = -1 ∧ qdelta 0b1110 = 1 ∧ qdelta 0b1111 = 0) ∧
  ∀ p1 p0 c1 c0 : Bool,
    qdelta (BitVec.ofBool p1 ++ BitVec.ofBool p0 ++ BitVec.ofBool c1 ++ BitVec.ofBool c0) =
      if (p1 ^^ c1) = (p0 ^^ c0) then 0 else if (p1 ^^ c0) = true then 1 else -1

/-- R173: from any count and any pair `p0` of the forward cycle `p0→p1→p2→p3→p0`: one forward step adds
1, one reverse step subtracts 1 and a skipped state adds 0; (b) a full forward turn adds 4, a full
reverse turn subtracts 4; (c) a step to any pair and the step back add 0. All modulo 2^32, and after
a turn or a return the pair is `p0` again. -/
def Obligations.TurnsAddFourAndReturnsAddNothing : Prop :=
  ∀ (b : Block) (p0 p1 p2 p3 : PhasePair), (p0, p1, p2, p3) ∈ forwardCycles → b.prevAb = p0 →
    ((qedge p1 b).yaw = b.yaw + 1 ∧ (qedge p3 b).yaw = b.yaw - 1 ∧ (qedge p2 b).yaw = b.yaw) ∧
    qedge p0 (qedge p3 (qedge p2 (qedge p1 b))) = { b with yaw := b.yaw + 4 } ∧
    qedge p0 (qedge p1 (qedge p2 (qedge p3 b))) = { b with yaw := b.yaw - 4 } ∧
    ∀ c : PhasePair, qedge p0 (qedge c b) = b

/-- R175: invoking the decoder with the pair it already has changes none of the nine items. -/
def Obligations.RepeatedPairIsHarmless : Prop :=
  ∀ s : State, s.params.legal = true →
    exec (.qedge s.block.prevAb) s = .next (s.after s.block none .none)

/-- R177: exchanging the two lines exchanges forward and reverse. -/
def Obligations.ExchangedLinesReverseTheCount : Prop :=
  ∀ p1 p0 c1 c0 : Bool,
    qdelta (keyOf (BitVec.ofBool p0 ++ BitVec.ofBool p1) (BitVec.ofBool c0 ++ BitVec.ofBool c1)) =
      -qdelta (keyOf (BitVec.ofBool p1 ++ BitVec.ofBool p0) (BitVec.ofBool c1 ++ BitVec.ofBool c0))

/-- R173 (a), R197 (f): after any run from RESET(ab0) without a further RESET, `yaw` is the number of
forward steps minus the number of reverse steps modulo 2^32, and `prev_ab` is the pair last
presented. -/
def Obligations.YawCountsNetSteps : Prop :=
  ∀ (p : Params) (ab0 : PhasePair) (is : List Instr) (t : State),
    (∀ i ∈ is, isReset i = false) → runInstrs is (State.resetWith p ab0) = .next t →
    t.block.yaw = BitVec.ofInt 32 (netSteps ab0 is) ∧ t.block.prevAb = lastPair ab0 is

/-- R61: QEDGE commutes with every operation that does not reach the decoder, on all nine items. -/
def Obligations.QedgeCommutesWithTheOtherAgents : Prop :=
  ∀ (i : Instr) (ab : PhasePair) (s s1 s2 u1 u2 : State), isReset i = false →
    reachesDecoder i = false → exec (.qedge ab) s = .next s1 → exec i s1 = .next s2 →
    exec i s = .next u1 → exec (.qedge ab) u1 = .next u2 → s2.block = u2.block

/-- R173 (e): what the decoder ends up with depends only on what it started with (`ab0` after a RESET)
and on the sequence of pairs presented to it: not on how many clocks pass between them, nor on what
TICK, DRAIN and the other instructions do there, nor on anything the producer and the consumer hold.
Two runs may differ in all of that. (Rows of the transition table count as events of their own,
which is the model's, log 7; runs without rows are covered in the spec's own terms.) -/
def Obligations.DecoderDependsOnItsPairsOnly : Prop :=
  ∀ (is js : List Instr) (s u s' u' : State), is.flatMap decoderEvents = js.flatMap decoderEvents →
    s.block.yaw = u.block.yaw → s.block.prevAb = u.block.prevAb →
    runInstrs is s = .next s' → runInstrs js u = .next u' →
    s'.block.yaw = u'.block.yaw ∧ s'.block.prevAb = u'.block.prevAb

/-! ## The buffer and the engine -/

/-- R59, R101, R102: seen through its unread samples, the buffer is a queue of capacity N that drops
its oldest sample when a PUSH finds it full, and POP takes its head. -/
def Obligations.BufferIsADropOldestQueue : Prop :=
  ∀ (n clock : Nat) (b : Block), b.bufferOk n →
    (∀ x, ∃ c, push n x b = .ok c ∧ c.bufferOk n ∧
      c.unread n = queuePush n x (b.unread n)) ∧
    (b.count = 0 → b.unread n = [] ∧ pop n clock b = .ok (none, b)) ∧
    (b.count ≠ 0 → ∃ e v c, pop n clock b = .ok (some v, c) ∧ c.bufferOk n ∧
      b.unread n = e :: c.unread n ∧ ∀ y, e = some y → v = y)

/-- R59, R106: over any run from reset without a further RESET, the samples popped are a subsequence
of the samples pushed, so none is delivered twice or out of order; they are a prefix when no PUSH
found the buffer full; and what was pushed is what was popped, dropped or is still unread. -/
def Obligations.PopsFollowThePushes : Prop :=
  ∀ (p : Params) (ab0 : PhasePair) (is : List Instr) (t : State), p.legal = true →
    (∀ i ∈ is, isReset i = false) → runInstrs is (State.resetWith p ab0) = .next t →
    (collect poppedBy is (State.resetWith p ab0)).Sublist
      (collect pushedBy is (State.resetWith p ab0)) ∧
    (collect overflowBy is (State.resetWith p ab0) = [] →
      collect poppedBy is (State.resetWith p ab0) <+:
        collect pushedBy is (State.resetWith p ab0)) ∧
    t.block.count + (collect poppedBy is (State.resetWith p ab0)).length +
        (collect overflowBy is (State.resetWith p ab0)).length =
      (collect pushedBy is (State.resetWith p ab0)).length

/-- R139, R197 (b), (g): over any run from reset without a further RESET, record `j` carries the
truncated average of the engine's samples number jN + 1 to jN + N, one record for every N samples;
`k` and `acc` are the number and the sum of the samples since the last record. -/
def Obligations.RecordsAreBlockAverages : Prop :=
  ∀ (p : Params) (ab0 : PhasePair) (is : List Instr) (t : State), p.legal = true →
    (∀ i ∈ is, isReset i = false) → runInstrs is (State.resetWith p ab0) = .next t →
    ∀ (xs : List Sample) (rs : List OutRecord),
      xs = collect drainedBy is (State.resetWith p ab0) →
      rs = collect recordBy is (State.resetWith p ab0) →
      rs.length = xs.length / p.n ∧
      (∀ j r, rs[j]? = some r →
        r.altitude.toInt = ((((xs.drop (j * p.n)).take p.n).map sext).sum).tdiv p.n) ∧
      t.block.k = xs.length % p.n ∧
      t.block.acc.toInt = ((xs.drop (xs.length / p.n * p.n)).map sext).sum

/-- R26, R197 (e): `sample_count` is the number of TICKs since RESET modulo 2^32, overflow of the
buffer or not. -/
def Obligations.SampleCounterCountsTicks : Prop :=
  ∀ (p : Params) (ab0 : PhasePair) (is : List Instr) (t : State),
    (∀ i ∈ is, isReset i = false) → runInstrs is (State.resetWith p ab0) = .next t →
    t.block.sampleCount = BitVec.ofNat 32 (is.countP ticks)

/-- R6, R22 to R24, R28: in a good state the indices, the count and the position fit the widths
IDX_W and COUNT_W. -/
def Obligations.IndicesFitTheirWidths : Prop :=
  ∀ s : State, s.Inv →
    s.block.wr < 2 ^ s.params.idxWidth ∧ s.block.rd < 2 ^ s.params.idxWidth ∧
    s.block.k < 2 ^ s.params.idxWidth ∧ s.block.count < 2 ^ s.params.countWidth

/-! ## Arithmetic -/

/-- R12: the quotient truncated toward zero. -/
def Obligations.QuotTruncatesTowardZero : Prop :=
  ∀ a b : Int, b ≠ 0 → quot a b = a.sign * b.sign * ((a.natAbs / b.natAbs : Nat) : Int)

/-- R13: clamp. -/
def Obligations.ClampStaysInItsRange : Prop :=
  ∀ v lo hi : Int, lo ≤ hi → (v < lo → clamp v lo hi = lo) ∧ (hi < v → clamp v lo hi = hi) ∧
    (lo ≤ v → v ≤ hi → clamp v lo hi = v)

/-- R135: AVG of the sum of N samples is the truncated quotient, and fits a Sample exactly. -/
def Obligations.AverageFitsASample : Prop :=
  ∀ (n : Nat) (sum : Int), 1 ≤ n → -32768 * (n : Int) ≤ sum → sum ≤ 32767 * (n : Int) →
    avg n sum = sum.tdiv n ∧ -32768 ≤ avg n sum ∧ avg n sum ≤ 32767 ∧
      (BitVec.ofInt 16 (avg n sum)).toInt = avg n sum

/-- R153: DUTY lies in [5, 95] for every sample, so every record any instruction emits from any
state does. -/
def Obligations.DutyIsAlwaysClamped : Prop :=
  (∀ (p : Params) (v : Sample), 5 ≤ duty p v ∧ duty p v ≤ 95) ∧
  ∀ (i : Instr) (s t : State) (r : OutRecord), exec i s = .next t →
    t.outputs.record = some r → 5 ≤ r.duty.toNat ∧ r.duty.toNat ≤ 95

/-- R154: DUTY is monotonic, and exact at the two end points. -/
def Obligations.DutyIsMonotonic : Prop :=
  ∀ p : Params, p.legal = true →
    (∀ v w : Sample, v.toInt ≤ w.toInt → duty p v ≤ duty p w) ∧
    duty p p.inMin = 5 ∧ duty p p.inMax = 95

/-- R150, R152: nothing wraps: the intermediate values of PCT and DUTY are bounded, and both results
fit their ports. -/
def Obligations.ScalerIntermediatesAreBounded : Prop :=
  ∀ (p : Params) (v : Sample), p.legal = true →
    |v.toInt - p.inMin.toInt| ≤ 65535 ∧ |(v.toInt - p.inMin.toInt) * 90| ≤ 5898150 ∧
    |dutyRaw p v| < 2 ^ 23 ∧ |v.toInt * (p.scaleNum : Int)| < 2 ^ 30 ∧
    (pctPort p v).toInt = pct p v ∧ ((dutyPort p v).toNat : Int) = duty p v

/-! ## Runs and the written form -/

/-- R194: every run is an interleaving of single operations: the run of the operations read off row
by row, slot 1 before slot 2, ends with the same nine items and emits the same records. -/
def Obligations.EveryRunIsAnInterleaving : Prop :=
  ∀ (is : List Instr) (s t : State), runInstrs is s = .next t →
    ∃ u, runInstrs (is.flatMap serial) s = .next u ∧ u.block = t.block ∧
      collect recordBy (is.flatMap serial) s = collect recordBy is s

/-- R195: the end state of a program is where its words leave the machine, one clock each; its output
trace holds exactly the records emitted, each with the index of the word that emitted it, in the
order of the words and each once (the indices strictly rise). The second part says the same of any
number of clocks from any state, the first of them numbered `index`. -/
def Obligations.ProgramsEndWhereTheirWordsLeaveThem : Prop :=
  (∀ (s e : State) (ws : List CommandWord) (trace : List (Nat × OutRecord)),
    runProgram s ws = .next (e, trace) →
      core.run ws.length (s.loadWords ws) = .next e ∧
      (trace.map (·.1)).Pairwise (· < ·) ∧
      ∀ j r, (j, r) ∈ trace ↔ ∃ t, j < ws.length ∧
        core.run (j + 1) (s.loadWords ws) = .next t ∧ t.outputs.record = some r) ∧
  ∀ (steps index : Nat) (s e : State) (trace : List (Nat × OutRecord)),
    runTrace steps index s = .next (e, trace) →
      core.run steps s = .next e ∧
      (trace.map (·.1)).Pairwise (· < ·) ∧
      ∀ j r, (j, r) ∈ trace ↔ ∃ m t, m < steps ∧ j = index + m ∧
        core.run (m + 1) s = .next t ∧ t.outputs.record = some r

/-- R195, R210: a program (a list of unreserved words beginning with a RESET) runs to its end from any
state, whatever the state held: the end has the invariant, and neither the nine items at the end nor
the output trace depends on the start. -/
def Obligations.ProgramsRunAlikeFromAnyState : Prop :=
  ∀ (s u : State) (ws : List CommandWord), s.params.legal = true → u.params = s.params →
    isProgram ws = true → ∃ e f trace, runProgram s ws = .next (e, trace) ∧
      runProgram u ws = .next (f, trace) ∧ e.Inv ∧ e.block = f.block

/-- R83: the pseudo-instructions expand as the table says. -/
def Obligations.PseudoInstructionsExpand : Prop :=
  (∀ n l, assembleLine (.rep n l) = (List.replicate n (assembleLine l)).flatten) ∧
  (∀ ss, assembleLine (.ticks ss) = ss.flatMap fun s => assembleLine (.cycle (some s) false none)) ∧
  (∀ ps, assembleLine (.qseq ps) = ps.flatMap fun q => assembleLine (.cycle none false (some q))) ∧
  (∀ n, assembleLine (.drains n) = assembleLine (.rep n (.cycle none true none))) ∧
  (∀ s, assembleLine (.feed s) =
    assembleLine (.cycle (some s) false none) ++ assembleLine (.cycle none true none))

/-- R79, R82: the word of a CYCLE line has the bits of the slot terms that are present, the sample
and the pair they name, and zeros in the fields of the absent ones. -/
def Obligations.CycleLinesEncodeTheirTerms : Prop :=
  ∀ (t : Option Literal) (d : Bool) (q : Option PhasePair),
    (assembleLine (.cycle t d q)).map encode =
      [commandBytes (encodeCycle d t.isSome q.isSome (q.getD 0)
        ((t.map literalSample).getD 0))]
end

