-- ==== Sys2Proof/Laws/Decode.lean ====
section
/-! SUPPORT. Splitting a command word into bytes and joining them again. -/

namespace Sys2Proof

/-- The three bytes of a word, joined, are the word. -/
theorem commandBytes_join (w : CommandWord) :
    w.extractLsb' 16 8 ++ w.extractLsb' 8 8 ++ w.extractLsb' 0 8 = w := by
  ext i hi
  simp only [BitVec.getElem_append, BitVec.getElem_extractLsb']
  split
  · simp [BitVec.getLsbD_eq_getElem, hi]
  · split
    · simp only [show 8 + (i - 8) = i by omega, BitVec.getLsbD_eq_getElem hi]
    · simp only [show 16 + (i - 8 - 8) = i by omega, BitVec.getLsbD_eq_getElem hi]

/-- Decoding the bytes of a command word is decoding the word. -/
@[simp] theorem decode_commandBytes (w : CommandWord) :
    decode (commandBytes w) = decodeCommand w := by
  simp only [decode, commandBytes]
  exact congrArg decodeCommand (commandBytes_join w)

/-- Decoding the byte of a key is looking its row up. -/
@[simp] theorem decode_keyBytes (key : Key) : decode (keyBytes key) = .ok (decodeKey key) := by
  revert key; decide

/-- The fields of a word made of six fixed bits, a pair and a sample. -/
theorem fields_of_append (c : BitVec 6) (ab : PhasePair) (x : Sample) :
    (c ++ ab ++ x).extractLsb' 21 3 = c.extractLsb' 3 3 ∧
    (c ++ ab ++ x).extractLsb' 18 3 = c.extractLsb' 0 3 ∧
    (c ++ ab ++ x).extractLsb' 16 2 = ab ∧ (c ++ ab ++ x).extractLsb' 0 16 = x := by
  refine ⟨?_, ?_, ?_, ?_⟩ <;> apply BitVec.eq_of_getElem_eq <;> intro i hi <;>
    simp only [BitVec.getElem_extractLsb', BitVec.getLsbD_append] <;> interval_cases i <;> simp

/-- The fields of a word made of eight fixed bits and a sample. -/
theorem fields_of_append_sample (c : BitVec 8) (x : Sample) :
    (c ++ x).extractLsb' 21 3 = c.extractLsb' 5 3 ∧ (c ++ x).extractLsb' 0 16 = x ∧
    (c ++ x).extractLsb' 16 5 = c.extractLsb' 0 5 := by
  refine ⟨?_, ?_, ?_⟩ <;> apply BitVec.eq_of_getElem_eq <;> intro i hi <;>
    simp only [BitVec.getElem_extractLsb', BitVec.getLsbD_append] <;> interval_cases i <;> simp

/-- The six leading bits of a word, one by one. -/
theorem leading_bit_of_append (c : BitVec 6) (ab : PhasePair) (x : Sample) (i : Nat) :
    (c ++ ab ++ x).getLsbD (18 + i) = c.getLsbD i := by
  simp only [BitVec.getLsbD_append, show ¬ 18 + i < 16 by omega, show 18 + i - 16 = 2 + i by omega,
    show ¬ 2 + i < 2 by omega, show 2 + i - 2 = i by omega, if_false]

/-- Each field of a CYCLE word is the field it was made from. -/
theorem fields_encodeCycle (d t e : Bool) (ab : PhasePair) (x : Sample) :
    fieldClass (encodeCycle d t e ab x) = 0 ∧ fieldD (encodeCycle d t e ab x) = d ∧
    fieldT (encodeCycle d t e ab x) = t ∧ fieldE (encodeCycle d t e ab x) = e ∧
    fieldAb (encodeCycle d t e ab x) = ab ∧ fieldS (encodeCycle d t e ab x) = x := by
  have h := fields_of_append
    (0b000#3 ++ BitVec.ofBool d ++ BitVec.ofBool t ++ BitVec.ofBool e) ab x
  have g := leading_bit_of_append
    (0b000#3 ++ BitVec.ofBool d ++ BitVec.ofBool t ++ BitVec.ofBool e) ab x
  refine ⟨h.1.trans ?_, (g 2).trans ?_, (g 1).trans ?_, (g 0).trans ?_, h.2.2.1, h.2.2.2⟩ <;>
    clear h g <;> revert d t e <;> decide

end Sys2Proof
end

