-- ==== Sys2Proof/Laws/Memory.lean ====
section
/-! SUPPORT. The storage: reading after writing, and the canonical form, which every operation on it
keeps. -/

namespace Sys2Proof.Machine

open Sys2Proof

@[simp] theorem Memory.read?_nil (i : Nat) : Memory.read? [] i = none := rfl

/-- MemRead after MemWrite at the same index. -/
@[simp] theorem Memory.read?_write_same (m : Memory) (i : Nat) (v : Sample) :
    Memory.read? (Memory.write m i v) i = some v := by
  induction m with
  | nil => simp [Memory.write, Memory.read?]
  | cons c rest ih =>
    obtain ⟨j, w⟩ := c
    simp only [Memory.write]
    split
    · simp [Memory.read?]
    · split
      · simp [Memory.read?]
      · simp [Memory.read?, ih, show j ≠ i by omega]

/-- MemWrite leaves every other entry alone. -/
theorem Memory.read?_write_other (m : Memory) {i a : Nat} (v : Sample) (h : a ≠ i) :
    Memory.read? (Memory.write m i v) a = Memory.read? m a := by
  induction m with
  | nil => simp [Memory.write, Memory.read?, h.symm]
  | cons c rest ih =>
    obtain ⟨j, w⟩ := c
    simp only [Memory.write]
    split
    · simp [Memory.read?, h.symm]
    · split
      · subst_vars; simp [Memory.read?, h.symm]
      · simp [Memory.read?, ih]

theorem Memory.read?_write (m : Memory) (i a : Nat) (v : Sample) :
    Memory.read? (Memory.write m i v) a = if a = i then some v else Memory.read? m a := by
  split
  · subst_vars; simp
  · exact Memory.read?_write_other m v ‹_›

theorem Memory.write_risesFrom {m : Memory} {i lo : Nat} (v : Sample)
    (h : Memory.risesFrom m lo = true) (hi : lo ≤ i) :
    Memory.risesFrom (Memory.write m i v) lo = true := by
  induction m generalizing lo with
  | nil => simp [Memory.write, Memory.risesFrom, hi]
  | cons c rest ih =>
    obtain ⟨j, w⟩ := c
    simp only [Memory.risesFrom, Bool.and_eq_true, decide_eq_true_eq] at h
    simp only [Memory.write]
    split
    · simp [Memory.risesFrom, hi, h.2, Nat.succ_le_of_lt ‹i < j›]
    · split
      · subst_vars; simp [Memory.risesFrom, h]
      · simp only [Memory.risesFrom, Bool.and_eq_true, decide_eq_true_eq]
        exact ⟨h.1, ih h.2 (by omega)⟩

/-- MemWrite keeps the canonical form. -/
theorem Memory.write_wf {m : Memory} (i : Nat) (v : Sample) (h : Memory.wf m = true) :
    Memory.wf (Memory.write m i v) = true :=
  Memory.write_risesFrom v h (Nat.zero_le i)

/-- MemWrite to an entry of the address space keeps every listed entry in it. -/
theorem Memory.write_within {m : Memory} {n i : Nat} (v : Sample)
    (h : Memory.within n m = true) (hi : i < n) :
    Memory.within n (Memory.write m i v) = true := by
  induction m with
  | nil => simp [Memory.write, Memory.within, hi]
  | cons c rest ih =>
    obtain ⟨j, w⟩ := c
    simp only [Memory.within, List.all_cons, Bool.and_eq_true] at h ih ⊢
    simp only [Memory.write]
    split
    · simp [hi, h]
    · split
      · simp [hi, h.2]
      · simp only [List.all_cons, Bool.and_eq_true]
        exact ⟨h.1, ih h.2⟩

/-- RESET leaves the storage in canonical form. -/
theorem resetBlock_mem_wf (ab : PhasePair) (b : Block) :
    Memory.wf (resetBlock ab b).mem = true := rfl

/-- The machine right after reset has its storage in canonical form. -/
theorem reset_mem_wf (p : Params) (ab : PhasePair) :
    Memory.wf (State.resetWith p ab).block.mem = true := rfl

end Sys2Proof.Machine
end

