-- ==== Sys2Proof/Laws/State.lean ====
section
/-! SUPPORT. One lemma per field for each total update of the state, true by rfl, so that no later proof
unfolds a record update. -/

namespace Sys2Proof.Machine

open Sys2Proof

@[simp] theorem advance_params (s : State) :
    (s.advance).params = s.params := rfl

@[simp] theorem advance_block (s : State) :
    (s.advance).block = s.block := rfl

@[simp] theorem advance_outputs (s : State) :
    (s.advance).outputs = s.outputs := rfl

@[simp] theorem advance_response (s : State) :
    (s.advance).response = s.response := rfl

@[simp] theorem advance_clock (s : State) :
    (s.advance).clock = s.clock + 1 := rfl

@[simp] theorem advance_stimuli (s : State) :
    (s.advance).stimuli = s.stimuli.tail := rfl

@[simp] theorem withFetchWord_params (s : State) (nbits w : Nat) :
    (s.withFetchWord nbits w).params = s.params := rfl

@[simp] theorem withFetchWord_block (s : State) (nbits w : Nat) :
    (s.withFetchWord nbits w).block = s.block := rfl

@[simp] theorem withFetchWord_outputs (s : State) (nbits w : Nat) :
    (s.withFetchWord nbits w).outputs = s.outputs := rfl

@[simp] theorem withFetchWord_response (s : State) (nbits w : Nat) :
    (s.withFetchWord nbits w).response = s.response := rfl

@[simp] theorem withFetchWord_clock (s : State) (nbits w : Nat) :
    (s.withFetchWord nbits w).clock = s.clock := rfl

@[simp] theorem withFetchWord_stimuli (s : State) (nbits w : Nat) :
    (s.withFetchWord nbits w).stimuli = tableStimulus nbits w :: s.stimuli := rfl

@[simp] theorem loadWords_params (s : State) (ws : List CommandWord) :
    (s.loadWords ws).params = s.params := rfl

@[simp] theorem loadWords_block (s : State) (ws : List CommandWord) :
    (s.loadWords ws).block = s.block := rfl

@[simp] theorem loadWords_outputs (s : State) (ws : List CommandWord) :
    (s.loadWords ws).outputs = s.outputs := rfl

@[simp] theorem loadWords_response (s : State) (ws : List CommandWord) :
    (s.loadWords ws).response = s.response := rfl

@[simp] theorem loadWords_clock (s : State) (ws : List CommandWord) :
    (s.loadWords ws).clock = s.clock := rfl

@[simp] theorem loadWords_stimuli (s : State) (ws : List CommandWord) :
    (s.loadWords ws).stimuli = ws.map fun w => .word (commandBytes w) := rfl

@[simp] theorem resetWith_params (p : Params) (ab : PhasePair) :
    (State.resetWith p ab).params = p := rfl

@[simp] theorem resetWith_block (p : Params) (ab : PhasePair) :
    (State.resetWith p ab).block = Block.afterReset ab := rfl

@[simp] theorem resetWith_outputs (p : Params) (ab : PhasePair) :
    (State.resetWith p ab).outputs = ⟨p.pwmFreq, 0, 0, none⟩ := rfl

@[simp] theorem resetWith_response (p : Params) (ab : PhasePair) :
    (State.resetWith p ab).response = .none := rfl

@[simp] theorem resetWith_clock (p : Params) (ab : PhasePair) :
    (State.resetWith p ab).clock = 0 := rfl

@[simp] theorem resetWith_stimuli (p : Params) (ab : PhasePair) :
    (State.resetWith p ab).stimuli = [] := rfl

@[simp] theorem afterReset_mem (ab : PhasePair) :
    (Block.afterReset ab).mem = [] := rfl

@[simp] theorem afterReset_wr (ab : PhasePair) :
    (Block.afterReset ab).wr = 0 := rfl

@[simp] theorem afterReset_rd (ab : PhasePair) :
    (Block.afterReset ab).rd = 0 := rfl

@[simp] theorem afterReset_count (ab : PhasePair) :
    (Block.afterReset ab).count = 0 := rfl

@[simp] theorem afterReset_sampleCount (ab : PhasePair) :
    (Block.afterReset ab).sampleCount = 0 := rfl

@[simp] theorem afterReset_acc (ab : PhasePair) :
    (Block.afterReset ab).acc = 0 := rfl

@[simp] theorem afterReset_k (ab : PhasePair) :
    (Block.afterReset ab).k = 0 := rfl

@[simp] theorem afterReset_yaw (ab : PhasePair) :
    (Block.afterReset ab).yaw = 0 := rfl

@[simp] theorem afterReset_prevAb (ab : PhasePair) :
    (Block.afterReset ab).prevAb = ab := rfl

@[simp] theorem resetBlock_mem (ab : PhasePair) (b : Block) :
    (resetBlock ab b).mem = [] := rfl

@[simp] theorem resetBlock_wr (ab : PhasePair) (b : Block) :
    (resetBlock ab b).wr = 0 := rfl

@[simp] theorem resetBlock_rd (ab : PhasePair) (b : Block) :
    (resetBlock ab b).rd = 0 := rfl

@[simp] theorem resetBlock_count (ab : PhasePair) (b : Block) :
    (resetBlock ab b).count = 0 := rfl

@[simp] theorem resetBlock_sampleCount (ab : PhasePair) (b : Block) :
    (resetBlock ab b).sampleCount = 0 := rfl

@[simp] theorem resetBlock_acc (ab : PhasePair) (b : Block) :
    (resetBlock ab b).acc = 0 := rfl

@[simp] theorem resetBlock_k (ab : PhasePair) (b : Block) :
    (resetBlock ab b).k = 0 := rfl

@[simp] theorem resetBlock_yaw (ab : PhasePair) (b : Block) :
    (resetBlock ab b).yaw = 0 := rfl

@[simp] theorem resetBlock_prevAb (ab : PhasePair) (b : Block) :
    (resetBlock ab b).prevAb = ab := rfl

@[simp] theorem qedge_mem (ab : PhasePair) (b : Block) :
    (qedge ab b).mem = b.mem := rfl

@[simp] theorem qedge_wr (ab : PhasePair) (b : Block) :
    (qedge ab b).wr = b.wr := rfl

@[simp] theorem qedge_rd (ab : PhasePair) (b : Block) :
    (qedge ab b).rd = b.rd := rfl

@[simp] theorem qedge_count (ab : PhasePair) (b : Block) :
    (qedge ab b).count = b.count := rfl

@[simp] theorem qedge_sampleCount (ab : PhasePair) (b : Block) :
    (qedge ab b).sampleCount = b.sampleCount := rfl

@[simp] theorem qedge_acc (ab : PhasePair) (b : Block) :
    (qedge ab b).acc = b.acc := rfl

@[simp] theorem qedge_k (ab : PhasePair) (b : Block) :
    (qedge ab b).k = b.k := rfl

@[simp] theorem qedge_yaw (ab : PhasePair) (b : Block) :
    (qedge ab b).yaw = wrapS 32 (b.yaw.toInt + qdelta (keyOf b.prevAb ab)) := rfl

@[simp] theorem qedge_prevAb (ab : PhasePair) (b : Block) :
    (qedge ab b).prevAb = ab := rfl

@[simp] theorem portsWith_pwmFreq (s : State) (r : Option OutRecord) :
    (s.portsWith r).pwmFreq = s.params.pwmFreq := rfl

@[simp] theorem portsWith_yawOut (s : State) (r : Option OutRecord) :
    (s.portsWith r).yawOut = s.block.yaw := rfl

@[simp] theorem portsWith_sampleCountOut (s : State) (r : Option OutRecord) :
    (s.portsWith r).sampleCountOut = s.block.sampleCount := rfl

@[simp] theorem portsWith_record (s : State) (r : Option OutRecord) :
    (s.portsWith r).record = r := rfl

@[simp] theorem outRecord_pwmFreq (p : Params) (a : Sample) (b : Block) :
    (outRecord p a b).pwmFreq = p.pwmFreq := rfl

@[simp] theorem outRecord_duty (p : Params) (a : Sample) (b : Block) :
    (outRecord p a b).duty = dutyPort p a := rfl

@[simp] theorem outRecord_altitude (p : Params) (a : Sample) (b : Block) :
    (outRecord p a b).altitude = a := rfl

@[simp] theorem outRecord_altPercent (p : Params) (a : Sample) (b : Block) :
    (outRecord p a b).altPercent = pctPort p a := rfl

@[simp] theorem outRecord_yaw (p : Params) (a : Sample) (b : Block) :
    (outRecord p a b).yaw = b.yaw := rfl

@[simp] theorem outRecord_sampleCount (p : Params) (a : Sample) (b : Block) :
    (outRecord p a b).sampleCount = b.sampleCount := rfl

/-- A selected row: `yaw` moves by the row's change and `prev_ab` follows. -/
theorem applyRow_selected {prev ab : PhasePair} {d : Int} {b : Block} (h : b.prevAb = prev) :
    applyRow prev ab d b = { b with yaw := wrapS 32 (b.yaw.toInt + d), prevAb := ab } := by
  simp [applyRow, h]

/-- An unselected row does nothing. -/
theorem applyRow_unselected {prev ab : PhasePair} {d : Int} {b : Block} (h : b.prevAb ≠ prev) :
    applyRow prev ab d b = b := by
  simp [applyRow, h]

@[simp] theorem applyRow_mem (prev ab : PhasePair) (d : Int) (b : Block) :
    (applyRow prev ab d b).mem = b.mem := by
  unfold applyRow; split <;> rfl

@[simp] theorem applyRow_wr (prev ab : PhasePair) (d : Int) (b : Block) :
    (applyRow prev ab d b).wr = b.wr := by
  unfold applyRow; split <;> rfl

@[simp] theorem applyRow_rd (prev ab : PhasePair) (d : Int) (b : Block) :
    (applyRow prev ab d b).rd = b.rd := by
  unfold applyRow; split <;> rfl

@[simp] theorem applyRow_count (prev ab : PhasePair) (d : Int) (b : Block) :
    (applyRow prev ab d b).count = b.count := by
  unfold applyRow; split <;> rfl

@[simp] theorem applyRow_sampleCount (prev ab : PhasePair) (d : Int) (b : Block) :
    (applyRow prev ab d b).sampleCount = b.sampleCount := by
  unfold applyRow; split <;> rfl

@[simp] theorem applyRow_acc (prev ab : PhasePair) (d : Int) (b : Block) :
    (applyRow prev ab d b).acc = b.acc := by
  unfold applyRow; split <;> rfl

@[simp] theorem applyRow_k (prev ab : PhasePair) (d : Int) (b : Block) :
    (applyRow prev ab d b).k = b.k := by
  unfold applyRow; split <;> rfl

end Sys2Proof.Machine
end

