-- ==== Sys2Proof/Laws/Ops.lean ====
section
/-! SUPPORT. What each shared operation can do, said once: later proofs cite these and do not unfold the
operations. -/

namespace Sys2Proof.Machine

open Sys2Proof

/-- PUSH answers exactly when `wr` is an entry, and then this (R101). -/
theorem push_eq_ok {n : Nat} {x : Sample} {b b' : Block} :
    push n x b = .ok b' ↔ b.wr < n ∧ b' = { b with
      mem := Memory.write b.mem b.wr x
      wr := nextIndex n b.wr
      rd := if b.count = n then nextIndex n b.rd else b.rd
      count := if b.count = n then b.count else b.count + 1 } := by
  unfold push
  split
  · simp only [Except.ok.injEq, Block.full, beq_iff_eq, ‹b.wr < n›, true_and]
    exact eq_comm
  · simp [*]

/-- PUSH faults exactly when `wr` is no entry. -/
theorem push_eq_error {n : Nat} {x : Sample} {b : Block} {f : Fault} :
    push n x b = .error f ↔ ¬ b.wr < n ∧ f = .noSuchEntry b.wr := by
  unfold push
  split
  · simp [*]
  · simpa [*] using eq_comm

/-- What POP can answer (R102). -/
theorem pop_cases {n clock : Nat} {b b' : Block} {r : Option Sample}
    (h : pop n clock b = .ok (r, b')) :
    (b.count = 0 ∧ r = none ∧ b' = b) ∨
      (b.count ≠ 0 ∧ b.rd < n ∧ r = some (Memory.read b.mem clock b.rd) ∧
        b' = { b with rd := nextIndex n b.rd, count := b.count - 1 }) := by
  unfold pop at h
  split at h
  · have hc : b.count = 0 := by simpa [Block.empty] using ‹b.empty = true›
    obtain ⟨rfl, rfl⟩ : none = r ∧ b = b' := by simpa using h
    exact .inl ⟨hc, rfl, rfl⟩
  · split at h
    · refine .inr ⟨by simpa [Block.empty] using ‹¬ b.empty = true›, ‹_›, ?_⟩
      obtain ⟨rfl, rfl⟩ := by simpa using h
      exact ⟨rfl, rfl⟩
    · cases h

/-- POP of an empty buffer. -/
theorem pop_empty {n clock : Nat} {b : Block} (h : b.count = 0) :
    pop n clock b = .ok (none, b) := by
  simp [pop, Block.empty, h]

/-- POP of a buffer that holds a sample. -/
theorem pop_some {n clock : Nat} {b : Block} (h : b.count ≠ 0) (hr : b.rd < n) :
    pop n clock b = .ok (some (Memory.read b.mem clock b.rd),
      { b with rd := nextIndex n b.rd, count := b.count - 1 }) := by
  simp [pop, Block.empty, h, hr]

/-- POP faults exactly when a sample is there and `rd` is no entry. -/
theorem pop_eq_error {n clock : Nat} {b : Block} {f : Fault} :
    pop n clock b = .error f ↔ b.count ≠ 0 ∧ ¬ b.rd < n ∧ f = .noSuchEntry b.rd := by
  unfold pop
  by_cases h : b.count = 0
  · simp [Block.empty, h]
  · by_cases hr : b.rd < n
    · simp [Block.empty, h, hr]
    · simpa [Block.empty, h, hr] using eq_comm

/-- TICK is PUSH and one more firing counted (R120). -/
theorem tick_eq_ok {n : Nat} {x : Sample} {b b' : Block} :
    tick n x b = .ok b' ↔ ∃ c, push n x b = .ok c ∧
      b' = { c with sampleCount := wrapU 32 (c.sampleCount.toNat + 1) } := by
  unfold tick
  rcases push n x b with f | c
  · simp
  · constructor
    · intro h
      exact ⟨c, rfl, (Except.ok.inj h).symm⟩
    · rintro ⟨d, hd, rfl⟩
      rw [Except.ok.inj hd]

/-- TICK in full (R101, R120). -/
theorem tick_of_lt {n : Nat} {x : Sample} {b : Block} (h : b.wr < n) :
    tick n x b = .ok { b with
      mem := Memory.write b.mem b.wr x
      wr := nextIndex n b.wr
      rd := if b.count = n then nextIndex n b.rd else b.rd
      count := if b.count = n then b.count else b.count + 1
      sampleCount := wrapU 32 (b.sampleCount.toNat + 1) } := by
  have := (push_eq_ok (x := x)).mpr ⟨h, rfl⟩
  simp [tick, this]

/-- TICK faults where its PUSH does. -/
theorem tick_eq_error {n : Nat} {x : Sample} {b : Block} {f : Fault} :
    tick n x b = .error f ↔ ¬ b.wr < n ∧ f = .noSuchEntry b.wr := by
  rw [← push_eq_error (x := x)]
  unfold tick
  cases push n x b <;> simp

/-- A sample that does not complete the control cycle (R136). -/
theorem absorb_more {p : Params} {x : Sample} {b : Block} (h : b.k ≠ p.n - 1) :
    absorb p x b = ({ b with acc := wrapS 32 (b.acc.toInt + sext x), k := b.k + 1 }, none) := by
  simp [absorb, h]

/-- The N-th sample of the control cycle (R136). -/
theorem absorb_last {p : Params} {x : Sample} {b : Block} (h : b.k = p.n - 1) :
    absorb p x b = ({ b with acc := 0, k := 0 },
      some (outRecord p (wrapS 16 (avg p.n (b.acc.toInt + sext x))) b)) := by
  simp [absorb, h]

/-- What DRAIN can answer (R136, R137): an idle poll, or a sample absorbed. -/
theorem drain_cases {p : Params} {clock : Nat} {b b' : Block} {o : Option OutRecord}
    (h : drain p clock b = .ok (b', o)) :
    (b.count = 0 ∧ b' = b ∧ o = none) ∨
      (b.count ≠ 0 ∧ b.rd < p.n ∧
        (b', o) = absorb p (Memory.read b.mem clock b.rd)
          { b with rd := nextIndex p.n b.rd, count := b.count - 1 }) := by
  unfold drain at h
  split at h
  · rename_i hp
    obtain ⟨hc, -, rfl⟩ | ⟨-, -, hr, -⟩ := pop_cases hp
    · obtain ⟨rfl, rfl⟩ := by simpa using h
      exact .inl ⟨hc, rfl, rfl⟩
    · cases hr
  · rename_i hp
    obtain ⟨-, hr, -⟩ | ⟨hc, hrd, hx, rfl⟩ := pop_cases hp
    · cases hr
    · obtain rfl := by simpa using hx
      exact .inr ⟨hc, hrd, (Except.ok.inj h).symm⟩
  · cases h

/-- DRAIN of an empty buffer: an idle poll (R137). -/
theorem drain_empty {p : Params} {clock : Nat} {b : Block} (h : b.count = 0) :
    drain p clock b = .ok (b, none) := by
  simp [drain, pop_empty h]

/-- DRAIN of a buffer that holds a sample. -/
theorem drain_some {p : Params} {clock : Nat} {b : Block} (h : b.count ≠ 0) (hr : b.rd < p.n) :
    drain p clock b = .ok (absorb p (Memory.read b.mem clock b.rd)
      { b with rd := nextIndex p.n b.rd, count := b.count - 1 }) := by
  simp [drain, pop_some h hr]

/-- DRAIN faults where its POP does. -/
theorem drain_eq_error {p : Params} {clock : Nat} {b : Block} {f : Fault} :
    drain p clock b = .error f ↔ b.count ≠ 0 ∧ ¬ b.rd < p.n ∧ f = .noSuchEntry b.rd := by
  rw [← pop_eq_error (clock := clock)]
  unfold drain
  split <;> simp [*]

@[simp] theorem noRecord_ok (b : Block) : noRecord (.ok b) = .ok (b, none) := rfl
@[simp] theorem noRecord_error (f : Fault) : noRecord (.error f) = .error f := rfl
@[simp] theorem withQedge_ok (ab : PhasePair) (b : Block) (o : Option OutRecord) :
    withQedge ab (.ok (b, o)) = .ok (qedge ab b, o) := rfl
@[simp] theorem withQedge_error (ab : PhasePair) (f : Fault) :
    withQedge ab (.error f) = .error f := rfl

/-- What a clock can answer: a next state only with legal parameters and an answer of its
operations, and then with the block, the ports and the response replaced and nothing else. -/
theorem complete_eq_next {s t : State} {r : Except Fault (Block × Option OutRecord)}
    {resp : Response} :
    s.complete r resp = .next t ↔ s.params.legal = true ∧ ∃ b o, r = .ok (b, o) ∧
      t = { s with block := b, outputs := s.portsWith o, response := resp } := by
  unfold State.complete
  split
  · rcases r with f | ⟨b, o⟩
    · simp
    · constructor
      · intro h
        exact ⟨‹_›, b, o, rfl, (Host.Outcome.next.inj h).symm⟩
      · rintro ⟨-, c, p, hr, rfl⟩
        obtain ⟨rfl, rfl⟩ := by simpa using hr
        rfl
  · simp [*]

/-- A clock of a block with legal parameters whose operations answer. -/
theorem complete_ok {s : State} {b : Block} {o : Option OutRecord} {resp : Response}
    (h : s.params.legal = true) :
    s.complete (.ok (b, o)) resp =
      .next { s with block := b, outputs := s.portsWith o, response := resp } := by
  simp [State.complete, h]

/-- A clock of a block with legal parameters whose operations fault. -/
theorem complete_error {s : State} {f : Fault} {resp : Response} (h : s.params.legal = true) :
    s.complete (.error f) resp = .fault f := by
  simp [State.complete, h]

/-- Without legal parameters there is no block (R7). -/
theorem complete_illegal {s : State} {r : Except Fault (Block × Option OutRecord)}
    {resp : Response} (h : s.params.legal = false) :
    s.complete r resp = .refused .illegalParameters := by
  simp [State.complete, h]

end Sys2Proof.Machine
end

