-- ==== Sys2Proof/Laws/Exec.lean ====
section
/-! SUPPORT. What an instruction can do, said once: `exec` is one clock whose operations give
`effect` and whose response is `answer`; later proofs about all instructions cite `exec_eq_next`. -/

namespace Sys2Proof.Machine

open Sys2Proof

/-- The nine items after a POP (R102). -/
def popEffect : Except Fault (Option Sample × Block) → Except Fault (Block × Option OutRecord)
  | .ok (_, b) => .ok (b, none)
  | .error f => .error f

/-- What a POP returns (R102). -/
def popResponse : Except Fault (Option Sample × Block) → Response
  | .ok (v, _) => .popped v
  | .error _ => .none

/-- What an instruction does to the nine items, and the record it emits. -/
def effect (i : Instr) (s : State) : Except Fault (Block × Option OutRecord) :=
  match i with
  | .nop => .ok (s.block, none)
  | .qedge ab => .ok (qedge ab s.block, none)
  | .tick x => noRecord (tick s.params.n x s.block)
  | .tickQedge x ab => withQedge ab (noRecord (tick s.params.n x s.block))
  | .drain => drain s.params s.clock s.block
  | .drainQedge ab => withQedge ab (drain s.params s.clock s.block)
  | .tickDrain x => noRecord (tick s.params.n x s.block)
  | .tickDrainQedge x ab => withQedge ab (noRecord (tick s.params.n x s.block))
  | .reset ab => .ok (resetBlock ab s.block, none)
  | .push x => noRecord (push s.params.n x s.block)
  | .pop => popEffect (pop s.params.n s.clock s.block)
  | .yawrd => .ok (s.block, none)
  | .scale _ => .ok (s.block, none)
  | .qkey0000 => .ok (applyRow 0b00 0b00 0 s.block, none)
  | .qkey0001 => .ok (applyRow 0b00 0b01 1 s.block, none)
  | .qkey0010 => .ok (applyRow 0b00 0b10 (-1) s.block, none)
  | .qkey0011 => .ok (applyRow 0b00 0b11 0 s.block, none)
  | .qkey0100 => .ok (applyRow 0b01 0b00 (-1) s.block, none)
  | .qkey0101 => .ok (applyRow 0b01 0b01 0 s.block, none)
  | .qkey0110 => .ok (applyRow 0b01 0b10 0 s.block, none)
  | .qkey0111 => .ok (applyRow 0b01 0b11 1 s.block, none)
  | .qkey1000 => .ok (applyRow 0b10 0b00 1 s.block, none)
  | .qkey1001 => .ok (applyRow 0b10 0b01 0 s.block, none)
  | .qkey1010 => .ok (applyRow 0b10 0b10 0 s.block, none)
  | .qkey1011 => .ok (applyRow 0b10 0b11 (-1) s.block, none)
  | .qkey1100 => .ok (applyRow 0b11 0b00 0 s.block, none)
  | .qkey1101 => .ok (applyRow 0b11 0b01 (-1) s.block, none)
  | .qkey1110 => .ok (applyRow 0b11 0b10 1 s.block, none)
  | .qkey1111 => .ok (applyRow 0b11 0b11 0 s.block, none)

/-- What an instruction returns. -/
def answer (i : Instr) (s : State) : Response :=
  match i with
  | .nop => .none
  | .qedge _ => .none
  | .tick _ => .none
  | .tickQedge _ _ => .none
  | .drain => .none
  | .drainQedge _ => .none
  | .tickDrain _ => .none
  | .tickDrainQedge _ _ => .none
  | .reset _ => .none
  | .push _ => .none
  | .pop => popResponse (pop s.params.n s.clock s.block)
  | .yawrd => .yaw s.block.yaw
  | .scale v => .scaled (pctPort s.params v) (dutyPort s.params v)
  | .qkey0000 => .qdelta 0
  | .qkey0001 => .qdelta 1
  | .qkey0010 => .qdelta (-1)
  | .qkey0011 => .qdelta 0
  | .qkey0100 => .qdelta (-1)
  | .qkey0101 => .qdelta 0
  | .qkey0110 => .qdelta 0
  | .qkey0111 => .qdelta 1
  | .qkey1000 => .qdelta 1
  | .qkey1001 => .qdelta 0
  | .qkey1010 => .qdelta 0
  | .qkey1011 => .qdelta (-1)
  | .qkey1100 => .qdelta 0
  | .qkey1101 => .qdelta (-1)
  | .qkey1110 => .qdelta 1
  | .qkey1111 => .qdelta 0

/-- Every instruction is one clock. -/
theorem exec_eq_complete (i : Instr) (s : State) :
    exec i s = s.complete (effect i s) (answer i s) := by
  cases i
  case pop =>
    simp only [exec, execPop, effect, answer]
    rcases pop s.params.n s.clock s.block with f | ⟨v, b⟩ <;> rfl
  all_goals rfl

/-- What an instruction can answer: a next state exactly with legal parameters and an effect, and
then the state it is. -/
theorem exec_eq_next {i : Instr} {s t : State} :
    exec i s = .next t ↔ s.params.legal = true ∧
      ∃ b o, effect i s = .ok (b, o) ∧ t = s.after b o (answer i s) := by
  rw [exec_eq_complete]
  exact complete_eq_next

/-- Where the effect is known, so is the next state. -/
theorem exec_of_effect {i : Instr} {s : State} {b : Block} {o : Option OutRecord}
    (h : s.params.legal = true) (he : effect i s = .ok (b, o)) :
    exec i s = .next (s.after b o (answer i s)) :=
  exec_eq_next.mpr ⟨h, b, o, he, rfl⟩

/-- An effect that faults is a clock that faults. -/
theorem exec_of_effect_error {i : Instr} {s : State} {f : Fault} (h : s.params.legal = true)
    (he : effect i s = .error f) : exec i s = .fault f := by
  rw [exec_eq_complete, he, complete_error h]

@[simp] theorem after_params (s : State) (b : Block) (o : Option OutRecord) (r : Response) :
    (s.after b o r).params = s.params := rfl

@[simp] theorem after_block (s : State) (b : Block) (o : Option OutRecord) (r : Response) :
    (s.after b o r).block = b := rfl

@[simp] theorem after_response (s : State) (b : Block) (o : Option OutRecord) (r : Response) :
    (s.after b o r).response = r := rfl

@[simp] theorem after_clock (s : State) (b : Block) (o : Option OutRecord) (r : Response) :
    (s.after b o r).clock = s.clock := rfl

@[simp] theorem after_stimuli (s : State) (b : Block) (o : Option OutRecord) (r : Response) :
    (s.after b o r).stimuli = s.stimuli := rfl

@[simp] theorem after_outputs_record (s : State) (b : Block) (o : Option OutRecord) (r : Response) :
    (s.after b o r).outputs.record = o := rfl

@[simp] theorem after_outputs_yawOut (s : State) (b : Block) (o : Option OutRecord) (r : Response) :
    (s.after b o r).outputs.yawOut = s.block.yaw := rfl

@[simp] theorem after_outputs_sampleCountOut (s : State) (b : Block) (o : Option OutRecord) (r : Response) :
    (s.after b o r).outputs.sampleCountOut = s.block.sampleCount := rfl

@[simp] theorem after_outputs_pwmFreq (s : State) (b : Block) (o : Option OutRecord) (r : Response) :
    (s.after b o r).outputs.pwmFreq = s.params.pwmFreq := rfl

/-- A step is the instruction of its stimulus, on the advanced state. -/
theorem step_eq_next {s t : State} :
    step s = .next t ↔ ∃ i, fetch s = .ok i ∧ exec i s.advance = .next t := by
  unfold step
  rcases fetch s with r | i <;> simp

/-- A step, then the rest of a run. -/
theorem run_succ_of_step {M : Host.Core} {k : Nat} {s t : M.State} (h : M.step s = .next t) :
    M.run (k + 1) s = M.run k t := by
  rw [Host.Core.run, h]

/-- The same for the machine: its first step, then the rest of a run. -/
theorem core_run_succ {k : Nat} {s t : State} (h : step s = .next t) :
    core.run (k + 1) s = core.run k t :=
  run_succ_of_step (M := core) h

end Sys2Proof.Machine
end

