-- ==== Sys2Proof/Laws/PerInstr.lean ====
section
/-! SUPPORT. Facts about every instruction as syntax, one lemma per constructor. -/

namespace Sys2Proof.Laws

open Sys2Proof

/-- The bytes are the format's: a transition key below 16, or a command word that R80 does not
reserve. -/
def EncodeAccepted.Accepted (bytes : List Byte) : Prop :=
  match bytes with
  | [b] => b.extractLsb' 4 4 = 0
  | [b0, b1, b2] => commandReserved (b2 ++ b1 ++ b0) = false
  | _ => False

/-- What is written for an instruction is never a reserved word. -/
def EncodeAccepted.Statement (i : Instr) : Prop := EncodeAccepted.Accepted (encode i)

theorem EncodeAccepted.accepted_commandBytes {w : CommandWord} (h : commandReserved w = false) :
    EncodeAccepted.Accepted (commandBytes w) := by
  have := commandBytes_join w
  simp only [EncodeAccepted.Accepted, commandBytes]
  rw [this, h]

theorem EncodeAccepted.cycle (d t e : Bool) (ab : PhasePair) (x : Sample) :
    EncodeAccepted.Accepted (commandBytes (encodeCycle d t e ab x)) := by
  refine EncodeAccepted.accepted_commandBytes ?_
  have h := (fields_encodeCycle d t e ab x).1
  simp only [fieldClass] at h
  simp [commandReserved, h]

theorem EncodeAccepted.sampleWord {c : BitVec 8} (x : Sample)
    (h : c.extractLsb' 0 5 = 0 ∧ (c.extractLsb' 5 3 = 2 ∨ c.extractLsb' 5 3 = 5)) :
    EncodeAccepted.Accepted (commandBytes (c ++ x)) := by
  refine EncodeAccepted.accepted_commandBytes ?_
  obtain ⟨h1, -, h3⟩ := fields_of_append_sample c x
  obtain ⟨h4, h5 | h5⟩ := h <;> simp [commandReserved, h1, h3, h4, h5]

theorem EncodeAccepted.nop : EncodeAccepted.Statement .nop := EncodeAccepted.cycle _ _ _ _ _
theorem EncodeAccepted.qedge (ab : PhasePair) : EncodeAccepted.Statement (.qedge ab) :=
  EncodeAccepted.cycle _ _ _ _ _
theorem EncodeAccepted.tick (x : Sample) : EncodeAccepted.Statement (.tick x) :=
  EncodeAccepted.cycle _ _ _ _ _
theorem EncodeAccepted.tickQedge (x : Sample) (ab : PhasePair) :
    EncodeAccepted.Statement (.tickQedge x ab) := EncodeAccepted.cycle _ _ _ _ _
theorem EncodeAccepted.drain : EncodeAccepted.Statement .drain := EncodeAccepted.cycle _ _ _ _ _
theorem EncodeAccepted.drainQedge (ab : PhasePair) : EncodeAccepted.Statement (.drainQedge ab) :=
  EncodeAccepted.cycle _ _ _ _ _
theorem EncodeAccepted.tickDrain (x : Sample) : EncodeAccepted.Statement (.tickDrain x) :=
  EncodeAccepted.cycle _ _ _ _ _
theorem EncodeAccepted.tickDrainQedge (x : Sample) (ab : PhasePair) :
    EncodeAccepted.Statement (.tickDrainQedge x ab) := EncodeAccepted.cycle _ _ _ _ _
theorem EncodeAccepted.reset (ab : PhasePair) : EncodeAccepted.Statement (.reset ab) := by
  refine EncodeAccepted.accepted_commandBytes ?_
  revert ab
  decide
theorem EncodeAccepted.push (x : Sample) : EncodeAccepted.Statement (.push x) :=
  EncodeAccepted.sampleWord x (by decide)
theorem EncodeAccepted.pop : EncodeAccepted.Statement .pop :=
  EncodeAccepted.accepted_commandBytes (by decide)
theorem EncodeAccepted.yawrd : EncodeAccepted.Statement .yawrd :=
  EncodeAccepted.accepted_commandBytes (by decide)
theorem EncodeAccepted.scale (v : Sample) : EncodeAccepted.Statement (.scale v) :=
  EncodeAccepted.sampleWord v (by decide)
theorem EncodeAccepted.qkey0000 : EncodeAccepted.Statement .qkey0000 := rfl
theorem EncodeAccepted.qkey0001 : EncodeAccepted.Statement .qkey0001 := rfl
theorem EncodeAccepted.qkey0010 : EncodeAccepted.Statement .qkey0010 := rfl
theorem EncodeAccepted.qkey0011 : EncodeAccepted.Statement .qkey0011 := rfl
theorem EncodeAccepted.qkey0100 : EncodeAccepted.Statement .qkey0100 := rfl
theorem EncodeAccepted.qkey0101 : EncodeAccepted.Statement .qkey0101 := rfl
theorem EncodeAccepted.qkey0110 : EncodeAccepted.Statement .qkey0110 := rfl
theorem EncodeAccepted.qkey0111 : EncodeAccepted.Statement .qkey0111 := rfl
theorem EncodeAccepted.qkey1000 : EncodeAccepted.Statement .qkey1000 := rfl
theorem EncodeAccepted.qkey1001 : EncodeAccepted.Statement .qkey1001 := rfl
theorem EncodeAccepted.qkey1010 : EncodeAccepted.Statement .qkey1010 := rfl
theorem EncodeAccepted.qkey1011 : EncodeAccepted.Statement .qkey1011 := rfl
theorem EncodeAccepted.qkey1100 : EncodeAccepted.Statement .qkey1100 := rfl
theorem EncodeAccepted.qkey1101 : EncodeAccepted.Statement .qkey1101 := rfl
theorem EncodeAccepted.qkey1110 : EncodeAccepted.Statement .qkey1110 := rfl
theorem EncodeAccepted.qkey1111 : EncodeAccepted.Statement .qkey1111 := rfl

end Sys2Proof.Laws
end

