-- ==== Sys2Proof/Tests/Slice0.lean ====
section
/-! SUPPORT. The model's own tests: ill-formed terms that are refused, words written out from the spec's
encodings, single clocks from spec/95_test_vectors.md (the vector's name is in each comment), lines
of the assembler, and for every statement with hypotheses a state that meets them. -/

namespace Sys2Proof.Tests

open Sys2Proof Sys2Proof.Machine

/-! ## Ill-formed terms -/

/-- R6: a buffer of no entries. -/
theorem test_params_zero_capacity_refused : (Params.withDefaults 0 0).legal = false := by decide
/-- R6: one entry more than the largest capacity; the largest itself is legal. -/
theorem test_params_capacity_bound :
    (Params.withDefaults 65537 0).legal = false ∧ (Params.withDefaults 65536 0).legal = true := by
  decide
/-- R6: IN_MIN must be below IN_MAX. -/
theorem test_params_equal_ends_refused :
    ({ Params.withDefaults 4 0 with inMin := 1023 }).legal = false := by decide
/-- R6: SCALE_NUM is at most 32767. -/
theorem test_params_scale_num_bound :
    ({ Params.withDefaults 4 0 with scaleNum := 32768 }).legal = false ∧
      ({ Params.withDefaults 4 0 with scaleNum := 0 }).legal = true := by decide
/-- R6: SCALE_DEN is 1 to 32767. -/
theorem test_params_scale_den_bounds :
    ({ Params.withDefaults 4 0 with scaleDen := 0 }).legal = false ∧
      ({ Params.withDefaults 4 0 with scaleDen := 32768 }).legal = false := by decide

/-- VX12, VX13: classes 110 and 111. -/
theorem test_reserved_classes : decodeCommand 0xC00000 = .error (.reservedClass 0b110) ∧
    decodeCommand 0xE00000 = .error (.reservedClass 0b111) := by decide
/-- VX14, VX17: RESET with bit 18, and with bit 0. -/
theorem test_reserved_reset : decodeCommand 0x240000 = .error (.mustBeZero 0b001) ∧
    decodeCommand 0x200001 = .error (.mustBeZero 0b001) := by decide
/-- VX16 and R80: PUSH and SCALE with bit 16, the lowest that must be zero, and with bit 20. -/
theorem test_reserved_push_scale : decodeCommand 0x410000 = .error (.mustBeZero 0b010) ∧
    decodeCommand 0xB00000 = .error (.mustBeZero 0b101) := by decide
/-- VX15 and R80: POP with bit 0, YAWRD with bit 20. -/
theorem test_reserved_pop_yawrd : decodeCommand 0x600001 = .error (.mustBeZero 0b011) ∧
    decodeCommand 0x900000 = .error (.mustBeZero 0b100) := by decide
/-- The words above are reserved; VX4 is not. -/
theorem test_commandReserved : [0xC00000, 0xE00000, 0x240000, 0x200001, 0x410000, 0xB00000, 0x600001,
    0x900000].all commandReserved = true ∧ commandReserved 0x1F03FF = false := by decide
/-- A key has four bits. -/
theorem test_key_high_bits_refused : decode [0x1D] = .error .keyHighBits := by decide
/-- Two bytes are no word. -/
theorem test_word_length_refused : decode [0, 0] = .error (.wordLength 2) := by decide
/-- Every constructor is well-formed. -/
theorem test_instr_wellFormed : (Instr.tickDrainQedge (-1) 0b11).wellFormed = true := by decide
/-- R82: -32769 and 32768 are no Samples. -/
theorem test_literal_dec_bounds : (Literal.dec (-32769)).wellFormed = false ∧
    (Literal.dec 32768).wellFormed = false ∧ (Literal.dec (-32768)).wellFormed = true := by decide
/-- R82: a hexadecimal literal has one to four digits. -/
theorem test_literal_hex_bounds : (Literal.hex []).wellFormed = false ∧
    (Literal.hex [0, 0, 0, 0, 1]).wellFormed = false := by decide
/-- R83: an operand list is not empty. -/
theorem test_line_empty_lists_refused : (AsmLine.ticks []).wellFormed = false ∧
    (AsmLine.qseq []).wellFormed = false := by decide

/-! ## Words written out from the encodings of R73 to R78 -/

/-- VC0 and R79: the fields of NOP are ignored. -/
theorem test_decode_nop : decodeCommand 0b000_000_00_0000000000000000 = .ok .nop ∧
    decodeCommand 0b000_000_11_1111111111111111 = .ok .nop := by decide
/-- VX6. -/
theorem test_decode_qedge : decodeCommand 0b000_001_10_0000000000000000 = .ok (.qedge 0b10) := by
  decide
/-- VX1, VX2. -/
theorem test_decode_tick : decodeCommand 0b000_010_00_0000000001100100 = .ok (.tick 100) ∧
    decodeCommand 0b000_010_00_1111111111111111 = .ok (.tick (-1)) := by decide
/-- VC3. -/
theorem test_decode_tickQedge :
    decodeCommand 0b000_011_11_0000000000011110 = .ok (.tickQedge 30 0b11) := by decide
/-- VC4 and R79: DRAIN with other bits in the fields it ignores. -/
theorem test_decode_drain : decodeCommand 0b000_100_00_0000000000000000 = .ok .drain ∧
    decodeCommand 0b000_100_00_0000000010101011 = .ok .drain := by decide
/-- VX5. -/
theorem test_decode_drainQedge :
    decodeCommand 0b000_101_01_0000000000000000 = .ok (.drainQedge 0b01) := by decide
/-- VX3. -/
theorem test_decode_tickDrain :
    decodeCommand 0b000_110_00_1000000000000000 = .ok (.tickDrain (-32768)) := by decide
/-- VX4. -/
theorem test_decode_tickDrainQedge :
    decodeCommand 0b000_111_11_0000001111111111 = .ok (.tickDrainQedge 1023 0b11) := by decide
/-- VX7. -/
theorem test_decode_reset : decodeCommand 0b001_000_10_0000000000000000 = .ok (.reset 0b10) := by
  decide
/-- VX8. -/
theorem test_decode_push : decodeCommand 0b010_00000_1111111111111000 = .ok (.push (-8)) := by decide
/-- VX9. -/
theorem test_decode_pop : decodeCommand 0b011_000000000000000000000 = .ok .pop := by decide
/-- VX10. -/
theorem test_decode_yawrd : decodeCommand 0b100_000000000000000000000 = .ok .yawrd := by decide
/-- VX11. -/
theorem test_decode_scale : decodeCommand 0b101_00000_0000001111111111 = .ok (.scale 1023) := by
  decide
/-- R77: the sixteen keys, previous pair in the high bits. -/
theorem test_decode_keys :
    [0b00_00, 0b00_01, 0b00_10, 0b00_11, 0b01_00, 0b01_01, 0b01_10, 0b01_11].map decodeKey =
      [.qkey0000, .qkey0001, .qkey0010, .qkey0011, .qkey0100, .qkey0101, .qkey0110, .qkey0111] ∧
    [0b10_00, 0b10_01, 0b10_10, 0b10_11, 0b11_00, 0b11_01, 0b11_10, 0b11_11].map decodeKey =
      [.qkey1000, .qkey1001, .qkey1010, .qkey1011, .qkey1100, .qkey1101, .qkey1110, .qkey1111] := by
  decide
/-- A command word as three bytes, the least significant first (log 10), and a key as one. -/
theorem test_decode_bytes : decode [0xFF, 0x03, 0x1F] = .ok (.tickDrainQedge 1023 0b11) ∧
    decode [0x0D] = .ok .qkey1101 := by decide
/-- R81: `rst` overrides the rest of the ports. -/
theorem test_ports_reset : Inputs.toInstr ⟨true, true, 9, true, true, false, true⟩ =
    .reset 0b10 := by decide
/-- R81: ports to a CYCLE form; `a` is the high bit of the pair. -/
theorem test_ports_cycle : Inputs.toInstr ⟨false, true, 9, true, true, false, true⟩ =
    .tickDrainQedge 9 0b10 := by decide

/-! ## Single clocks -/

/-- A block from the columns of the vectors; `mem` as (index, sample). -/
def blockOf (mem : List (Nat × Sample)) (wr rd count : Nat) (sc : BitVec 32) (acc : BitVec 32)
    (k : Nat) (yaw : BitVec 32) (prev : PhasePair) : Block :=
  { mem := mem, wr := wr, rd := rd, count := count, sampleCount := sc, acc := acc, k := k,
    yaw := yaw, prevAb := prev }

/-- A state with capacity `n`, the defaults of R6 and `F = 7`. -/
def stateOf (n : Nat) (b : Block) : State :=
  { State.resetWith (Params.withDefaults n 7) 0 with block := b }

/-- The next state of an outcome. -/
def nextOf (o : Host.Outcome State Fault Refusal) : Option State :=
  match o with
  | .next t => some t
  | _ => none

theorem exists_next {o : Host.Outcome State Fault Refusal} (h : (nextOf o).isSome = true) :
    ∃ t, o = .next t := by
  cases o with
  | next t => exact ⟨t, rfl⟩
  | fault f => cases h
  | refused r => cases h

theorem exists_next_and {o : Host.Outcome State Fault Refusal} {f : State → Bool}
    (h : (nextOf o).map f = some true) : ∃ t, o = .next t ∧ f t = true := by
  cases o with
  | next t => exact ⟨t, rfl, Option.some.inj h⟩
  | fault f => cases h
  | refused r => cases h

/-- The block and the record after one instruction. -/
def after (i : Instr) (s : State) : Option (Block × Option OutRecord) :=
  (nextOf (exec i s)).map fun t => (t.block, t.outputs.record)

/-- What one instruction returns. -/
def returned (i : Instr) (s : State) : Option Response := (nextOf (exec i s)).map (·.response)

/-- The start state W of spec/95_test_vectors.md 2.7. -/
def stateW : State := stateOf 4 (blockOf [(0, 10), (1, 20)] 2 1 1 2 10 1 1 0b01)

/-- The start state X of spec/95_test_vectors.md 2.7. -/
def stateX : State :=
  stateOf 4 (blockOf [(0, 10), (1, 20), (2, 30), (3, 40)] 0 3 1 4 60 3 1 0b01)

/-- A full buffer, before VB4. -/
def stateFull : State := stateOf 4 (blockOf [(0, 1), (1, 2), (2, 3), (3, 4)] 0 0 4 4 0 0 0 0b00)

/-- A block right after RESET 00, with capacity 4. -/
def stateEmpty : State := stateOf 4 (Block.afterReset 0)

/-- VC0. -/
theorem test_nop : after .nop stateW = some (stateW.block, none) := by decide
/-- VC1. -/
theorem test_qedge : after (.qedge 0b11) stateW =
    some (blockOf [(0, 10), (1, 20)] 2 1 1 2 10 1 2 0b11, none) := by decide
/-- VQ21: `yaw` wraps downward. -/
theorem test_qedge_wraps : after (.qedge 0b10)
    (stateOf 4 (blockOf [] 0 0 0 0 0 0 0x80000000 0b00)) =
    some (blockOf [] 0 0 0 0 0 0 0x7FFFFFFF 0b10, none) := by decide
/-- VT2: overflow, and the firing is counted. -/
theorem test_tick_overflow : after (.tick 5) stateFull =
    some (blockOf [(0, 5), (1, 2), (2, 3), (3, 4)] 1 1 4 5 0 0 0 0b00, none) := by decide
/-- VT3: the Sample Counter wraps. -/
theorem test_tick_counter_wraps : after (.tick 9) (stateOf 4 (blockOf [] 3 3 0 0xFFFFFFFF 0 0 0 0)) =
    some (blockOf [(3, 9)] 0 3 1 0 0 0 0 0, none) := by decide
/-- VC3. -/
theorem test_tickQedge : after (.tickQedge 30 0b11) stateW =
    some (blockOf [(0, 10), (1, 20), (2, 30)] 3 1 2 3 10 1 2 0b11, none) := by decide
/-- VC4. -/
theorem test_drain : after .drain stateW =
    some (blockOf [(0, 10), (1, 20)] 2 2 0 2 30 2 1 0b01, none) := by decide
/-- VE5: an odd sum truncated, the duty clamped. -/
theorem test_drain_emits : after .drain
    (stateOf 2 (blockOf [(0, 3000), (1, -32768)] 0 0 2 4 (-7) 1 (-2) 0b10)) =
    some (blockOf [(0, 3000), (1, -32768)] 0 1 1 4 0 0 (-2) 0b10,
      some ⟨7, 95, 1496, 146, -2, 4⟩) := by decide
/-- VC9: the record carries the `yaw` from before the edge. -/
theorem test_drainQedge_emits : after (.drainQedge 0b11) stateX =
    some (blockOf [(0, 10), (1, 20), (2, 30), (3, 40)] 0 0 0 4 0 0 2 0b11,
      some ⟨7, 7, 25, 2, 1, 4⟩) := by decide
/-- VC10: the tick takes the buffer; no record. -/
theorem test_tickDrain : after (.tickDrain 50) stateX =
    some (blockOf [(0, 50), (1, 20), (2, 30), (3, 40)] 1 3 2 5 60 3 1 0b01, none) := by decide
/-- VC11. -/
theorem test_tickDrainQedge : after (.tickDrainQedge 50 0b00) stateX =
    some (blockOf [(0, 50), (1, 20), (2, 30), (3, 40)] 1 3 2 5 60 3 0 0b00, none) := by decide
/-- VZ1; no entry of `mem` is known afterwards (log 3). -/
theorem test_reset : after (.reset 0b11)
    (stateOf 4 (blockOf [(0, 5), (1, 6), (2, 3), (3, 4)] 2 3 3 77 9 2 (-4) 0b01)) =
    some (blockOf [] 0 0 0 0 0 0 0 0b11, none) := by decide
/-- R242: in the clock of the RESET the continuous ports show the values from before it. -/
theorem test_reset_ports : ((nextOf (exec (.reset 0b00) stateW)).map fun t =>
    (t.outputs.yawOut, t.outputs.sampleCountOut)) = some (1, 2) := by decide
/-- VB3: `wr` wraps; the buffer becomes full. -/
theorem test_push : after (.push 32767)
    (stateOf 4 (blockOf [(0, 1), (1, 2), (2, 3)] 3 0 3 0 0 0 0 0)) =
    some (blockOf [(0, 1), (1, 2), (2, 3), (3, 32767)] 0 0 4 0 0 0 0 0, none) := by decide
/-- VB11: overflow with N = 1. -/
theorem test_push_one_entry : after (.push 8) (stateOf 1 (blockOf [(0, 7)] 0 0 1 0 0 0 0 0)) =
    some (blockOf [(0, 8)] 0 0 1 0 0 0 0 0, none) := by decide
/-- VB15: `rd` wraps at a capacity that is no power of two. -/
theorem test_pop : let s := stateOf 3 (blockOf [(0, 10), (1, -8), (2, 9)] 1 2 2 0 0 0 0 0)
    after .pop s = some (blockOf [(0, 10), (1, -8), (2, 9)] 1 0 1 0 0 0 0 0, none) ∧
      returned .pop s = some (.popped (some 9)) := by decide
/-- VB9: empty, with stale data in `mem`. -/
theorem test_pop_empty : let s := stateOf 4 (blockOf [(0, 5), (1, 6), (2, 3), (3, 4)] 2 2 0 0 0 0 0 0)
    after .pop s = some (s.block, none) ∧ returned .pop s = some (.popped none) := by decide
/-- P6, word 11. -/
theorem test_yawrd : returned .yawrd (stateOf 3 (blockOf [] 1 1 0 0 0 0 (-1) 0b10)) =
    some (.yaw (-1)) := by decide
/-- VM1, VM12, VM16. -/
theorem test_scale : returned (.scale (-32768)) stateW = some (.scaled (-3203) 5) ∧
    returned (.scale 1022) stateW = some (.scaled 99 94) ∧
    returned (.scale 1035) stateW = some (.scaled 101 95) := by decide
/-- VM18: both quotients truncate toward zero. -/
theorem test_scale_negative : returned (.scale (-11)) stateW = some (.scaled (-1) 5) := by decide
/-- VA9, VA12, VA15: averages of negative sums. -/
theorem test_avg : avg 2 (-7) = -3 ∧ avg 3 (-10) = -3 ∧ avg 65536 (-2147483648) = -32768 := by decide

/-- A row of the transition table presented to a decoder with `yaw = 5` and previous pair `prev`. -/
def rowYaw (i : Instr) (prev : PhasePair) : Option (BitVec 32 × PhasePair) :=
  (after i (stateOf 4 (blockOf [] 0 0 0 0 0 0 5 prev))).map fun r => (r.1.yaw, r.1.prevAb)

/-- VQ0 to VQ3: the rows with previous pair 00. -/
theorem test_rows_00 : rowYaw .qkey0000 0b00 = some (5, 0b00) ∧ rowYaw .qkey0001 0b00 = some (6, 0b01) ∧
    rowYaw .qkey0010 0b00 = some (4, 0b10) ∧ rowYaw .qkey0011 0b00 = some (5, 0b11) := by decide
/-- VQ4 to VQ7. -/
theorem test_rows_01 : rowYaw .qkey0100 0b01 = some (4, 0b00) ∧ rowYaw .qkey0101 0b01 = some (5, 0b01) ∧
    rowYaw .qkey0110 0b01 = some (5, 0b10) ∧ rowYaw .qkey0111 0b01 = some (6, 0b11) := by decide
/-- VQ8 to VQ11. -/
theorem test_rows_10 : rowYaw .qkey1000 0b10 = some (6, 0b00) ∧ rowYaw .qkey1001 0b10 = some (5, 0b01) ∧
    rowYaw .qkey1010 0b10 = some (5, 0b10) ∧ rowYaw .qkey1011 0b10 = some (4, 0b11) := by decide
/-- VQ12 to VQ15. -/
theorem test_rows_11 : rowYaw .qkey1100 0b11 = some (5, 0b00) ∧ rowYaw .qkey1101 0b11 = some (4, 0b01) ∧
    rowYaw .qkey1110 0b11 = some (6, 0b10) ∧ rowYaw .qkey1111 0b11 = some (5, 0b11) := by decide

/-- A word queued as the next stimulus is performed by the very next step, from reset (VX1). -/
theorem test_step_runs_the_word :
    ((nextOf (step (State.reset.withFetchWord 24 0x080064))).map fun t =>
      (t.block.mem, t.block.count, t.stimuli, t.clock)) = some ([(0, 100)], 1, [], 1) := by decide

/-! ## The assembler -/

/-- R82: slot terms, a comment, both kinds of literal; hexadecimal is the 16-bit pattern. -/
theorem test_assemble_lines :
    assembleText "TICK -32768 + DRAIN ; the poll is dropped".toList = some [.tickDrain (-32768)] ∧
    assembleText "TICK 0xFFFF + QEDGE 10".toList = some [.tickQedge (-1) 0b10] ∧
    assembleText "RESET 10".toList = some [.reset 0b10] := by decide
/-- R82: the slot terms stand in one order, and a pair has two digits. -/
theorem test_assemble_refuses : assembleText "DRAIN + TICK 1".toList = none ∧
    assembleText "QEDGE 1".toList = none ∧ assembleText "PUSH 32768".toList = none := by decide
/-- R83: the pseudo-instructions. -/
theorem test_assemble_pseudo :
    assembleText "REP 2: FEED 5".toList = some [.tick 5, .drain, .tick 5, .drain] ∧
    assembleText "TICKS 1, -2".toList = some [.tick 1, .tick (-2)] ∧
    assembleText "QSEQ 01 11".toList = some [.qedge 0b01, .qedge 0b11] ∧
    assembleText "DRAINS 2".toList = some [.drain, .drain] := by decide

/-! ## The hypotheses of the statements can be met -/

/-- Port values without `rst`: `tick` and `drain_en` and an edge. -/
def portsCycle : Inputs := ⟨false, true, 9, true, true, false, true⟩

/-- Port values with `rst`. -/
def portsReset : Inputs := ⟨true, true, 9, true, true, false, true⟩

/-- A good state with the word DRAIN next: the N-th sample is waiting. -/
def stateGood : State := { stateX with stimuli := [.word (commandBytes 0x100000)] }

theorem stateGood_inv : stateGood.Inv := by
  refine ⟨by decide, ?_, ?_, ?_, ?_, fun r hr => by cases hr⟩
  · unfold Block.storageOk; decide
  · unfold Block.bufferOk; decide
  · unfold Block.unreadWritten; decide
  · unfold Block.cycleOk; decide

/-- A short run with N = 1 and no RESET: a push, an overflow, an edge and a record. -/
def shortRun : List Instr := [.push 1, .tickQedge 2 0b01, .drain]

/-- The state that `shortRun` starts in. -/
def shortStart : State := State.resetWith (Params.withDefaults 1 7) 0b00

theorem shortRun_noReset : ∀ i ∈ shortRun, isReset i = false := by decide

theorem shortRun_next : ∃ t, runInstrs shortRun shortStart = .next t :=
  exists_next (by decide)

/-- The N-th sample of the control cycle is waiting. -/
theorem exec_drain_stateX : ∃ t, exec .drain stateX = .next t := exists_next (by decide)

theorem witness_EncodeThenDecodeIsIdentity : (Instr.tick 5).wellFormed = true := by decide
theorem witness_DecodedWordsReencode : decodeCommand 0x1000AB = .ok .drain ∧
    decodeCommand 0x220000 = .ok (.reset 0b10) := by decide
theorem witness_ReservedWordsAreRefused :
    { stateW with stimuli := [.word (commandBytes 0xC00000)] }.stimuli =
      .word (commandBytes 0xC00000) :: [] ∧ commandReserved 0xC00000 = true := by decide
theorem witness_EveryWordMatchesOneRowOrIsReserved : commandReserved 0x240000 = true ∧
    commandReserved 0x230000 = false := by decide
theorem witness_IgnoredFieldsDoNotMatter : let w : CommandWord := 0x0B0032; let v : CommandWord := 0x080032
    w ≠ v ∧ fieldClass w = 0 ∧ fieldClass v = 0 ∧ fieldD w = fieldD v ∧ fieldT w = fieldT v ∧
    fieldE w = fieldE v ∧ (fieldT w = true → fieldS w = fieldS v) ∧
    (fieldE w = true → fieldAb w = fieldAb v) := by decide
theorem witness_StepRunsTheStimulus :
    (stateGood.stimuli = .word (commandBytes 0x100000) :: [] ∧
      decode (commandBytes 0x100000) = .ok .drain) ∧
    { stateW with stimuli := [.ports portsCycle] }.stimuli = .ports portsCycle :: [] ∧
    stateW.stimuli = [] := by decide
theorem witness_ResetPortOverridesTheOthers :
    let s : State := { stateW with stimuli := [.ports portsReset] }
    s.params.legal = true ∧ s.stimuli = .ports portsReset :: [] ∧ portsReset.rst = true := by decide
theorem witness_PortClockIsCycle :
    let s : State := { stateW with stimuli := [.ports portsCycle] }
    s.stimuli = .ports portsCycle :: [] ∧ portsCycle.rst = false := by decide
theorem witness_JoinedSubBlocksPerformCycle :
    let b := blockOf [(3, 1)] 3 3 1 0 0 3 0 0
    b.wr < (Params.withDefaults 4 7).n ∧ b.rd < (Params.withDefaults 4 7).n := by decide
theorem witness_StepKeepsTheInvariant : stateGood.Inv ∧ ∃ t, step stateGood = .next t :=
  ⟨stateGood_inv, exists_next (by decide)⟩
theorem witness_ResetMeetsTheInvariant : (Params.withDefaults 65536 7).legal = true ∧
    (Params.withDefaults 1 7).legal = true := by decide
theorem witness_TheBlockNeverStops : stateGood.Inv ∧ stateGood.nextIsWord :=
  ⟨stateGood_inv, fun bytes rest h => by cases h; exact ⟨.drain, by decide⟩⟩
theorem witness_EveryInstructionCompletes : stateGood.Inv := stateGood_inv
theorem witness_StepKeepsTheParameters : ∃ t, step stateGood = .next t := exists_next (by decide)
theorem witness_IllegalParametersAreRefused : (stateOf 0 stateW.block).params.legal = false := by
  decide
theorem witness_ResetSetsEveryRegister : stateW.params.legal = true := by decide
theorem witness_NopChangesNothing : stateW.params.legal = true := by decide
theorem witness_QedgeMovesYawAndPair : stateW.params.legal = true := by decide
theorem witness_TickPushesAndCounts : (stateFull.params.legal = true ∧
      stateFull.block.wr < stateFull.params.n ∧ stateFull.block.count = stateFull.params.n) ∧
    stateW.params.legal = true ∧ stateW.block.wr < stateW.params.n := by decide
theorem witness_DrainPollsAccumulatesEmits :
    (stateEmpty.params.legal = true ∧ stateEmpty.block.count = 0) ∧
    (stateW.block.count ≠ 0 ∧ stateW.block.rd < stateW.params.n ∧
      stateW.block.k ≠ stateW.params.n - 1) ∧
    (stateX.block.count ≠ 0 ∧ stateX.block.rd < stateX.params.n ∧
      stateX.block.k = stateX.params.n - 1) := by decide
theorem witness_CycleFormsAreTheirTableRows : stateX.params.legal = true ∧
    stateX.block.wr < stateX.params.n ∧ stateX.block.rd < stateX.params.n := by decide
theorem witness_PushStoresAndAdvances : stateFull.params.legal = true ∧
    stateFull.block.wr < stateFull.params.n ∧ stateFull.block.count = stateFull.params.n := by decide
theorem witness_PopReturnsTheOldest : (stateEmpty.params.legal = true ∧ stateEmpty.block.count = 0) ∧
    stateX.block.count ≠ 0 ∧ stateX.block.rd < stateX.params.n := by decide
theorem witness_YawrdReturnsYaw : stateW.params.legal = true := by decide
theorem witness_ScaleReturnsPercentAndDuty : stateW.params.legal = true := by decide
theorem witness_SelectedRowsStepTheDecoder : rowOf? .qkey0111 = some (0b01, 0b11) ∧
    stateW.params.legal = true ∧ stateW.block.prevAb = 0b01 := by decide
theorem witness_UnselectedRowsChangeNothing : rowOf? .qkey1101 = some (0b11, 0b01) ∧
    stateW.params.legal = true ∧ stateW.block.prevAb ≠ 0b11 := by decide
theorem witness_AccessOutsideTheStorageFaults :
    let s := stateOf 4 (blockOf [] 4 4 1 0 0 0 0 0)
    s.params.legal = true ∧ (stores (.push 1) = true ∧ ¬ s.block.wr < s.params.n) ∧
      (pops .drain = true ∧ s.block.count ≠ 0 ∧ ¬ s.block.rd < s.params.n) := by decide
theorem witness_NonStoringFormsLeaveTheStorage : stores .drain = false ∧ isReset .drain = false ∧
    ∃ t, exec .drain stateX = .next t := ⟨rfl, rfl, exec_drain_stateX⟩
theorem witness_StoringFormsWriteOnlyTheirEntry : stores (.tick 5) = true ∧
    ∃ t, exec (.tick 5) stateFull = .next t := ⟨rfl, exists_next (by decide)⟩
/-- The clauses: DRAIN stores nothing and reaches no decoder; NOP touches nothing; a PUSH that
finds the buffer not full leaves `rd`. -/
theorem witness_RegistersChangeOnlyUnderTheirWriters :
    (isReset .drain = false ∧ stores .drain = false ∧ ticks .drain = false ∧
      reachesDecoder .drain = false ∧ ∃ t, exec .drain stateX = .next t) ∧
    (pops .nop = false ∧ stores .nop = false ∧ drains .nop = false ∧
      ∃ t, exec .nop stateW = .next t) ∧
    (pops (.push 1) = false ∧ stateW.block.count ≠ stateW.params.n ∧
      ∃ t, exec (.push 1) stateW = .next t) :=
  ⟨⟨rfl, rfl, rfl, rfl, exec_drain_stateX⟩, ⟨rfl, rfl, rfl, exists_next (by decide)⟩,
    ⟨rfl, by decide, exists_next (by decide)⟩⟩
theorem witness_PortsShowTheStartOfTheClock : ∃ t, exec .drain stateX = .next t ∧
    ∃ r, t.outputs.record = some r := by
  obtain ⟨t, h, hr⟩ := exists_next_and (o := exec .drain stateX)
    (f := fun t => t.outputs.record.isSome) (by decide)
  exact ⟨t, h, Option.isSome_iff_exists.mp hr⟩
theorem witness_OutValidExactlyOnTheNthSample : (∃ t, exec .drain stateX = .next t) ∧
    drains .drain = true ∧ stateX.block.count ≠ 0 ∧ stateX.block.k = stateX.params.n - 1 :=
  ⟨exec_drain_stateX, by decide⟩
theorem witness_ValidPortsCarryTheRecord :
    ({ stateW with outputs := stateW.portsWith (some ⟨7, 66, 700, 68, 0, 1⟩) }).outputs.record =
      some ⟨7, 66, 700, 68, 0, 1⟩ := rfl
/-- A start in each of the four places of the cycle, with a count that wraps. -/
theorem witness_TurnsAddFourAndReturnsAddNothing :
    ((0b00, 0b01, 0b11, 0b10) ∈ forwardCycles ∧ (0b01, 0b11, 0b10, 0b00) ∈ forwardCycles ∧
      (0b11, 0b10, 0b00, 0b01) ∈ forwardCycles ∧ (0b10, 0b00, 0b01, 0b11) ∈ forwardCycles) ∧
    ∀ p0 : PhasePair, (blockOf [] 0 0 0 0 0 0 0x7FFFFFFF p0).prevAb = p0 := by decide
theorem witness_RepeatedPairIsHarmless : stateW.params.legal = true := by decide
theorem witness_YawCountsNetSteps : (∀ i ∈ shortRun, isReset i = false) ∧
    ∃ t, runInstrs shortRun (State.resetWith (Params.withDefaults 1 7) 0b00) = .next t :=
  ⟨shortRun_noReset, shortRun_next⟩
theorem witness_QedgeCommutesWithTheOtherAgents : isReset .drain = false ∧
    reachesDecoder .drain = false ∧
    (∃ s1, exec (.qedge 0b11) stateX = .next s1 ∧ ∃ s2, exec .drain s1 = .next s2) ∧
    ∃ u1, exec .drain stateX = .next u1 ∧ ∃ u2, exec (.qedge 0b11) u1 = .next u2 := by
  obtain ⟨s1, h1, h2⟩ := exists_next_and (o := exec (.qedge 0b11) stateX)
    (f := fun t => (nextOf (exec .drain t)).isSome) (by decide)
  obtain ⟨u1, g1, g2⟩ := exists_next_and (o := exec .drain stateX)
    (f := fun t => (nextOf (exec (.qedge 0b11) t)).isSome) (by decide)
  exact ⟨rfl, rfl, ⟨s1, h1, exists_next h2⟩, u1, g1, exists_next g2⟩
/-- Two runs that present the same pair, with other instructions, another number of clocks and other
contents of the buffer and the engine. -/
theorem witness_DecoderDependsOnItsPairsOnly :
    let js : List Instr := [.nop, .qedge 0b01]
    let u : State := { stateX with block := { stateX.block with yaw := 0, prevAb := 0b00 } }
    shortRun.flatMap decoderEvents = js.flatMap decoderEvents ∧
    shortStart.block.yaw = u.block.yaw ∧ shortStart.block.prevAb = u.block.prevAb ∧
    shortStart ≠ u ∧ shortRun.length ≠ js.length ∧
    (∃ t, runInstrs shortRun shortStart = .next t) ∧ ∃ t, runInstrs js u = .next t :=
  ⟨by decide, rfl, rfl, by decide, by decide, shortRun_next, exists_next (by decide)⟩
theorem witness_BufferIsADropOldestQueue : stateFull.block.bufferOk 4 ∧ stateFull.block.count ≠ 0 ∧
    stateEmpty.block.bufferOk 4 ∧ stateEmpty.block.count = 0 := by
  unfold Block.bufferOk; decide
/-- A run with an overflow, and one without. -/
theorem witness_PopsFollowThePushes : (Params.withDefaults 1 7).legal = true ∧
    (∀ i ∈ shortRun, isReset i = false) ∧ (∃ t, runInstrs shortRun shortStart = .next t) ∧
    collect overflowBy [.push 1, .pop] shortStart = [] ∧
    ∃ t, runInstrs [.push 1, .pop] shortStart = .next t :=
  ⟨by decide, shortRun_noReset, shortRun_next, by decide, exists_next (by decide)⟩
theorem witness_RecordsAreBlockAverages : (Params.withDefaults 1 7).legal = true ∧
    (∀ i ∈ shortRun, isReset i = false) ∧ (∃ t, runInstrs shortRun shortStart = .next t) ∧
    (collect recordBy shortRun shortStart).length = 1 :=
  ⟨by decide, shortRun_noReset, shortRun_next, by decide⟩
theorem witness_SampleCounterCountsTicks : (∀ i ∈ shortRun, isReset i = false) ∧
    ∃ t, runInstrs shortRun (State.resetWith (Params.withDefaults 1 7) 0b00) = .next t :=
  ⟨shortRun_noReset, shortRun_next⟩
theorem witness_IndicesFitTheirWidths : stateGood.Inv := stateGood_inv
theorem witness_QuotTruncatesTowardZero : (4 : Int) ≠ 0 ∧ quot (-5) 4 = -1 := by decide
theorem witness_ClampStaysInItsRange : (5 : Int) ≤ 95 ∧ (4 : Int) < 5 ∧ (95 : Int) < 96 ∧
    ((5 : Int) ≤ 5 ∧ (95 : Int) ≤ 95) := by decide
theorem witness_AverageFitsASample : 1 ≤ 65536 ∧ -32768 * ((65536 : Nat) : Int) ≤ -2147483648 ∧
    (-2147483648 : Int) ≤ 32767 * ((65536 : Nat) : Int) := by decide
theorem witness_DutyIsAlwaysClamped : ∃ t, exec .drain stateX = .next t ∧
    ∃ r, t.outputs.record = some r := witness_PortsShowTheStartOfTheClock
theorem witness_DutyIsMonotonic : (Params.withDefaults 4 7).legal = true ∧
    (-32768#16).toInt ≤ (32767#16).toInt := by decide
theorem witness_ScalerIntermediatesAreBounded : (Params.withDefaults 4 7).legal = true := by decide
theorem witness_EveryRunIsAnInterleaving : ∃ t, runInstrs shortRun shortStart = .next t :=
  shortRun_next
theorem witness_ProgramsEndWhereTheirWordsLeaveThem :
    (∃ r, runProgram shortStart [0x220000, 0x0802BC, 0x100000] = .next r) ∧
    ∃ r, runTrace 1 0 stateGood = .next r := by
  refine ⟨?_, ?_⟩
  · cases h : runProgram shortStart [0x220000, 0x0802BC, 0x100000] with
    | next r => exact ⟨r, rfl⟩
    | fault f => exact absurd h (by rintro ⟨⟩)
    | refused r => exact absurd h (by rintro ⟨⟩)
  · cases h : runTrace 1 0 stateGood with
    | next r => exact ⟨r, rfl⟩
    | fault f => exact absurd h (by rintro ⟨⟩)
    | refused r => exact absurd h (by rintro ⟨⟩)
theorem witness_ProgramsRunAlikeFromAnyState :
    let u : State := { stateOf 4 (blockOf [] 9 9 9 1 1 9 1 0b11) with clock := 5 }
    stateW ≠ u ∧ stateW.params.legal = true ∧ u.params = stateW.params ∧
      isProgram [0x220000, 0x0802BC, 0x100000] = true := by decide

end Sys2Proof.Tests
end

/-! # PROOFS. The scope of the block (spec/00_scope.md): legal parameters, derived widths, and the
arithmetic of R12 and R13. -/

namespace Sys2Proof

/-! ## The parameters (R6, R7) -/

/-- The "legal values" column of R6, read off the executable check. -/
theorem Params.legal_iff (p : Params) : p.legal = true ↔
    (1 ≤ p.n ∧ p.n ≤ 65536 ∧ p.inMin.toInt < p.inMax.toInt ∧ p.scaleNum ≤ 32767 ∧
      1 ≤ p.scaleDen ∧ p.scaleDen ≤ 32767) := by
  simp only [Params.legal, Bool.and_eq_true, decide_eq_true_eq, and_assoc]

/-- IDX_W bits name every entry of the buffer. -/
theorem Params.n_le_two_pow_idxWidth (p : Params) : p.n ≤ 2 ^ p.idxWidth :=
  calc p.n ≤ 2 ^ Nat.clog 2 p.n := Nat.le_pow_clog Nat.one_lt_two p.n
    _ ≤ 2 ^ p.idxWidth := Nat.pow_le_pow_right Nat.two_pos (Nat.le_max_right 1 _)

/-- COUNT_W bits hold every fill of the buffer, the full one included. -/
theorem Params.n_lt_two_pow_countWidth (p : Params) : p.n < 2 ^ p.countWidth :=
  Nat.le_pow_clog Nat.one_lt_two (p.n + 1)

namespace Machine

/-- R7: without legal parameters no instruction does anything. -/
theorem exec_illegal {s : State} (i : Instr) (h : s.params.legal = false) :
    exec i s = .refused .illegalParameters := by
  rw [exec_eq_complete, complete_illegal h]

/-- Settles O17: the check is R6's column, and every instruction is one clock of the block. -/
theorem illegalParametersAreRefused : Obligations.IllegalParametersAreRefused :=
  ⟨Params.legal_iff, fun i _ h => exec_illegal i h⟩

/-- Settles O49: the invariant keeps `wr`, `rd` and `k` below `N` and `count` at most `N`, and the
widths are wide enough for `N`. -/
theorem indicesFitTheirWidths : Obligations.IndicesFitTheirWidths := by
  intro s hs
  obtain ⟨hcount, hwr, hrd, -⟩ := hs.buffer
  obtain ⟨hk, -⟩ := hs.cycle
  have hidx := s.params.n_le_two_pow_idxWidth
  exact ⟨hwr.trans_le hidx, hrd.trans_le hidx, hk.trans_le hidx,
    hcount.trans_lt s.params.n_lt_two_pow_countWidth⟩

/-! ## `quot` and `clamp` (R12, R13) -/

/-- On naturals `quot` is the floor of the quotient. -/
@[simp] theorem quot_natCast (m n : Nat) : quot m n = ((m / n : Nat) : Int) := rfl

/-- `quot` is odd in the dividend: this is what truncation toward zero adds to the floor. -/
@[simp] theorem quot_neg_left (a b : Int) : quot (-a) b = -quot a b := Int.neg_tdiv a b

/-- `quot` is odd in the divisor. -/
@[simp] theorem quot_neg_right (a b : Int) : quot a (-b) = -quot a b := Int.tdiv_neg a b

/-- R12 on naturals: the signs are 1, or one of the numbers is 0 and so are both sides. -/
theorem natCast_div_eq_sign_mul (m n : Nat) :
    ((m / n : Nat) : Int) = (m : Int).sign * (n : Int).sign * ((m / n : Nat) : Int) := by
  rcases m.eq_zero_or_pos with rfl | hm
  · simp
  rcases n.eq_zero_or_pos with rfl | hn
  · simp
  · simp [Int.sign_eq_one_of_pos (Int.natCast_pos.mpr hm),
      Int.sign_eq_one_of_pos (Int.natCast_pos.mpr hn)]

/-- Settles O50: each number is a natural number or the negative of one, both sides are odd in each
number, and on naturals they agree. -/
theorem quotTruncatesTowardZero : Obligations.QuotTruncatesTowardZero := by
  intro a b _
  obtain ⟨m, ha⟩ := a.eq_nat_or_neg
  obtain ⟨n, hb⟩ := b.eq_nat_or_neg
  have key := natCast_div_eq_sign_mul m n
  rcases ha with rfl | rfl <;> rcases hb with rfl | rfl <;>
    simpa only [quot_natCast, quot_neg_left, quot_neg_right, Int.sign_neg, Int.natAbs_neg,
      Int.natAbs_natCast, neg_mul, mul_neg, neg_neg, neg_inj] using key

theorem clamp_of_lt {v lo hi : Int} (h : v < lo) : clamp v lo hi = lo := if_pos h

theorem clamp_of_gt {v lo hi : Int} (hle : lo ≤ hi) (h : hi < v) : clamp v lo hi = hi := by
  simp [clamp, h, show ¬ v < lo by omega]

theorem clamp_of_mem {v lo hi : Int} (hlo : lo ≤ v) (hhi : v ≤ hi) : clamp v lo hi = v := by
  simp [clamp, hlo.not_gt, hhi.not_gt]

/-- Settles O51, one clause for each place of `v`. -/
theorem clampStaysInItsRange : Obligations.ClampStaysInItsRange :=
  fun _ _ _ hle => ⟨clamp_of_lt, clamp_of_gt hle, clamp_of_mem⟩

end Machine

end Sys2Proof

/-! # PROOFS. The state (spec/10_state.md): the buffer as a queue, what one clock can do to the nine
items, the invariant along every clock, and the engine's records over a run. -/

namespace Sys2Proof.Machine

/-! ## The storage operations as updates of the nine items (R101, R102) -/

/-- The nine items after a PUSH. -/
@[simps] def Block.pushed (n : Nat) (x : Sample) (b : Block) : Block :=
  { b with
    mem := Memory.write b.mem b.wr x
    wr := nextIndex n b.wr
    rd := if b.count = n then nextIndex n b.rd else b.rd
    count := if b.count = n then b.count else b.count + 1 }

/-- The nine items after a POP of a buffer that holds a sample. -/
@[simps] def Block.popped (n : Nat) (b : Block) : Block :=
  { b with rd := nextIndex n b.rd, count := b.count - 1 }

theorem push_eq_ok_pushed {n : Nat} {x : Sample} {b b' : Block} :
    push n x b = .ok b' ↔ b.wr < n ∧ b' = b.pushed n x :=
  push_eq_ok

theorem pop_eq_popped {n clock : Nat} {b : Block} (hc : b.count ≠ 0) (hr : b.rd < n) :
    pop n clock b = .ok (some (Memory.read b.mem clock b.rd), b.popped n) :=
  pop_some hc hr

/-! ## The unread samples as a queue (R25, R59) -/

theorem Block.bufferOk.wr_lt {n : Nat} {b : Block} (h : b.bufferOk n) : b.wr < n := h.2.1

theorem Block.bufferOk.rd_lt {n : Nat} {b : Block} (h : b.bufferOk n) : b.rd < n := h.2.2.1

@[simp] theorem unread_length (n : Nat) (b : Block) : (b.unread n).length = b.count := by
  simp [Block.unread]

theorem unread_of_empty (n : Nat) {b : Block} (hc : b.count = 0) : b.unread n = [] := by
  simp [Block.unread, hc]

/-- Every unread entry is written exactly when the queue shows no entry as none. -/
theorem unreadWritten_iff (n : Nat) (b : Block) :
    b.unreadWritten n ↔ ∀ e ∈ b.unread n, e.isSome = true := by
  simp [Block.unreadWritten, Block.unread]

/-- The head of the queue is the entry at `rd`, and a POP leaves the rest. -/
theorem unread_eq_cons_popped {n : Nat} {b : Block} (hc : b.count ≠ 0) (hr : b.rd < n) :
    b.unread n = Memory.read? b.mem b.rd :: (b.popped n).unread n := by
  obtain ⟨m, hm⟩ := Nat.exists_eq_succ_of_ne_zero hc
  have hidx (j : Nat) : (nextIndex n b.rd + j) % n = (b.rd + (j + 1)) % n := by
    rw [nextIndex, Nat.mod_add_mod, Nat.add_assoc, Nat.add_comm 1 j]
  simp [Block.unread, hm, List.range_succ_eq_map, Nat.mod_eq_of_lt hr, hidx]

/-- Fewer than `n` steps from an index do not come back to it. -/
theorem add_mod_ne_add_mod {n i j k : Nat} (hj : j < k) (hk : k < n) :
    (i + j) % n ≠ (i + k) % n := fun h =>
  hj.ne ((Nat.ModEq.add_left_cancel' i h).eq_of_lt_of_lt (hj.trans hk) hk)

/-- A PUSH that finds room appends its sample: `wr` is the entry after the last unread one. -/
theorem unread_pushed_of_room {n : Nat} {b : Block} (x : Sample) (h : b.bufferOk n)
    (hroom : b.count ≠ n) : (b.pushed n x).unread n = b.unread n ++ [some x] := by
  obtain ⟨hle, -, -, hwr⟩ := h
  have hold : ∀ j ∈ List.range b.count,
      Memory.read? (Memory.write b.mem b.wr x) ((b.rd + j) % n) =
        Memory.read? b.mem ((b.rd + j) % n) := by
    intro j hj
    refine Memory.read?_write_other b.mem x ?_
    rw [hwr]
    exact add_mod_ne_add_mod (List.mem_range.mp hj) (by omega)
  simp [Block.unread, hroom, List.range_succ, ← hwr, List.map_congr_left hold]

/-- A POP of a full buffer makes room. -/
theorem popped_count_ne {n : Nat} {b : Block} (hfull : b.count = n) (hn : 0 < n) :
    (b.popped n).count ≠ n := by
  rw [Block.popped_count]
  omega

/-- A PUSH that finds the buffer full drops the oldest sample first: it is a POP and then a PUSH
that finds room. -/
theorem pushed_of_full {n : Nat} {b : Block} (x : Sample) (hfull : b.count = n) (hn : 0 < n) :
    b.pushed n x = (b.popped n).pushed n x := by
  have hroom : n - 1 ≠ n := by omega
  simp [Block.pushed, Block.popped, hfull, hroom, Nat.sub_add_cancel hn]

/-- POP keeps R25: one entry fewer, from one index further on. -/
theorem popped_bufferOk {n : Nat} {b : Block} (h : b.bufferOk n) (hc : b.count ≠ 0) :
    (b.popped n).bufferOk n := by
  obtain ⟨hle, hwr, -, heq⟩ := h
  refine ⟨by simp only [Block.popped_count]; omega, hwr, Nat.mod_lt _ (by omega), ?_⟩
  simp only [Block.popped_wr, Block.popped_rd, Block.popped_count, nextIndex, Nat.mod_add_mod]
  rw [heq, show b.rd + 1 + (b.count - 1) = b.rd + b.count by omega]

/-- PUSH keeps R25 where it finds room: one entry more. -/
theorem pushed_bufferOk_of_room {n : Nat} {b : Block} (x : Sample) (h : b.bufferOk n)
    (hroom : b.count ≠ n) : (b.pushed n x).bufferOk n := by
  obtain ⟨hle, hlt, hrd, hwr⟩ := h
  simp only [Block.bufferOk, Block.pushed_wr, Block.pushed_rd, Block.pushed_count, hroom, if_false,
    nextIndex]
  refine ⟨by omega, Nat.mod_lt _ (by omega), hrd, ?_⟩
  rw [hwr, Nat.mod_add_mod, Nat.add_assoc]

/-- PUSH keeps R25: where it finds no room, the POP it begins with makes some. -/
theorem pushed_bufferOk {n : Nat} {b : Block} (x : Sample) (h : b.bufferOk n) :
    (b.pushed n x).bufferOk n := by
  by_cases hfull : b.count = n
  · have hn : 0 < n := Nat.zero_lt_of_lt h.wr_lt
    rw [pushed_of_full x hfull hn]
    exact pushed_bufferOk_of_room x (popped_bufferOk h (by omega)) (popped_count_ne hfull hn)
  · exact pushed_bufferOk_of_room x h hfull

/-- A PUSH seen through the queue. -/
theorem unread_pushed {n : Nat} {b : Block} (x : Sample) (h : b.bufferOk n) :
    (b.pushed n x).unread n = queuePush n x (b.unread n) := by
  have hn : 0 < n := Nat.zero_lt_of_lt h.wr_lt
  rw [queuePush, unread_length]
  split
  case isTrue hfull =>
    have hc : b.count ≠ 0 := by omega
    rw [pushed_of_full x hfull hn,
      unread_pushed_of_room x (popped_bufferOk h hc) (popped_count_ne hfull hn),
      unread_eq_cons_popped hc h.rd_lt, List.tail_cons]
  case isFalse hroom => exact unread_pushed_of_room x h hroom

/-- What stands in a queue after a push stood there before or is the sample pushed. -/
theorem mem_or_eq_of_mem_queuePush {n : Nat} {x : Sample} {q : List (Option Sample)}
    {e : Option Sample} (h : e ∈ queuePush n x q) : e ∈ q ∨ e = some x := by
  rw [queuePush] at h
  split at h
  · obtain h | h := List.mem_append.mp h
    · exact .inl (List.mem_of_mem_tail h)
    · exact .inr (List.mem_singleton.mp h)
  · simpa using h

/-- Settles O45: PUSH appends, after dropping the head when full, and POP takes the head; both keep
R25. -/
theorem bufferIsADropOldestQueue : Obligations.BufferIsADropOldestQueue := by
  intro n clock b h
  have hrd : b.rd < n := h.rd_lt
  refine ⟨fun x => ?push, fun hc => ⟨unread_of_empty n hc, pop_empty hc⟩, fun hc => ?pop⟩
  case push =>
    exact ⟨b.pushed n x, push_eq_ok_pushed.mpr ⟨h.wr_lt, rfl⟩, pushed_bufferOk x h,
      unread_pushed x h⟩
  case pop =>
    refine ⟨_, _, b.popped n, pop_eq_popped hc hrd, popped_bufferOk h hc,
      unread_eq_cons_popped hc hrd, fun y hy => ?_⟩
    simp [Memory.read, hy]

/-! ## The two slots of a clock (R192): the storage and the engine, then the decoder -/

/-- What an instruction other than RESET does to the buffer, the counter and the engine. -/
def slotOne (i : Instr) (p : Params) (clock : Nat) (b : Block) :
    Except Fault (Block × Option OutRecord) :=
  match i with
  | .tick x | .tickQedge x _ | .tickDrain x | .tickDrainQedge x _ => noRecord (tick p.n x b)
  | .drain | .drainQedge _ => drain p clock b
  | .push x => noRecord (push p.n x b)
  | .pop => popEffect (pop p.n clock b)
  | _ => .ok (b, none)

/-- What an instruction other than RESET does to the decoder. -/
def slotTwo (i : Instr) (b : Block) : Block :=
  match i with
  | .qedge ab | .tickQedge _ ab | .drainQedge ab | .tickDrainQedge _ ab => qedge ab b
  | j =>
    match rowOf? j with
    | some (prev, ab) => applyRow prev ab (qdelta (keyOf prev ab)) b
    | none => b

theorem withQedge_eq_map (ab : PhasePair) (r : Except Fault (Block × Option OutRecord)) :
    withQedge ab r = r.map fun c => (qedge ab c.1, c.2) := by
  rcases r with f | ⟨b, o⟩ <;> rfl

/-- Every instruction but RESET is its first slot, then its second. -/
theorem effect_eq_slots {i : Instr} (s : State) (h : isReset i = false) :
    effect i s = (slotOne i s.params s.clock s.block).map fun c => (slotTwo i c.1, c.2) := by
  cases i with
  | reset ab => cases h
  | tickQedge x ab | drainQedge ab | tickDrainQedge x ab => exact withQedge_eq_map ab _
  | tick | drain | tickDrain | push | pop => exact (congrFun Except.map_id _).symm
  | _ => rfl

/-- The second slot is a QEDGE, a row of the table or nothing. -/
theorem slotTwo_cases (i : Instr) (b : Block) :
    (∃ ab, slotTwo i b = qedge ab b) ∨ (∃ prev ab d, slotTwo i b = applyRow prev ab d b) ∨
      slotTwo i b = b := by
  cases i with
  | qedge ab | tickQedge x ab | drainQedge ab | tickDrainQedge x ab => exact .inl ⟨ab, rfl⟩
  | nop | tick | drain | tickDrain | reset | push | pop | yawrd | scale => exact .inr (.inr rfl)
  | _ => exact .inr (.inl ⟨_, _, _, rfl⟩)

/-- An instruction that does not reach the decoder has nothing in the second slot. -/
theorem slotTwo_of_not_reachesDecoder {i : Instr} (b : Block) (h : reachesDecoder i = false) :
    slotTwo i b = b := by
  cases i with
  | nop | tick | drain | tickDrain | reset | push | pop | yawrd | scale => rfl
  | _ => cases h

@[simp] theorem slotTwo_mem (i : Instr) (b : Block) : (slotTwo i b).mem = b.mem := by
  obtain ⟨_, h⟩ | ⟨_, _, _, h⟩ | h := slotTwo_cases i b <;> simp [h]

@[simp] theorem slotTwo_wr (i : Instr) (b : Block) : (slotTwo i b).wr = b.wr := by
  obtain ⟨_, h⟩ | ⟨_, _, _, h⟩ | h := slotTwo_cases i b <;> simp [h]

@[simp] theorem slotTwo_rd (i : Instr) (b : Block) : (slotTwo i b).rd = b.rd := by
  obtain ⟨_, h⟩ | ⟨_, _, _, h⟩ | h := slotTwo_cases i b <;> simp [h]

@[simp] theorem slotTwo_count (i : Instr) (b : Block) : (slotTwo i b).count = b.count := by
  obtain ⟨_, h⟩ | ⟨_, _, _, h⟩ | h := slotTwo_cases i b <;> simp [h]

@[simp] theorem slotTwo_sampleCount (i : Instr) (b : Block) :
    (slotTwo i b).sampleCount = b.sampleCount := by
  obtain ⟨_, h⟩ | ⟨_, _, _, h⟩ | h := slotTwo_cases i b <;> simp [h]

@[simp] theorem slotTwo_acc (i : Instr) (b : Block) : (slotTwo i b).acc = b.acc := by
  obtain ⟨_, h⟩ | ⟨_, _, _, h⟩ | h := slotTwo_cases i b <;> simp [h]

@[simp] theorem slotTwo_k (i : Instr) (b : Block) : (slotTwo i b).k = b.k := by
  obtain ⟨_, h⟩ | ⟨_, _, _, h⟩ | h := slotTwo_cases i b <;> simp [h]

/-! ## What the first slot can do -/

/-- The nine items with one more firing counted (R120). -/
@[simps] def Block.counted (b : Block) : Block :=
  { b with sampleCount := wrapU 32 (b.sampleCount.toNat + 1) }

/-- The nine items after a sample that does not complete the control cycle (R136). -/
@[simps] def Block.accumulated (x : Sample) (b : Block) : Block :=
  { b with acc := wrapS 32 (b.acc.toInt + sext x), k := b.k + 1 }

/-- The nine items after the sample that completes the control cycle (R136). -/
@[simps] def Block.restarted (b : Block) : Block := { b with acc := 0, k := 0 }

/-- What the first slot of `i` can leave of `b`, and the record it can emit. -/
inductive SlotOne (i : Instr) (p : Params) (clock : Nat) (b : Block) :
    Block → Option OutRecord → Prop
  /-- Nothing, or a poll of an empty buffer. -/
  | idle (hstores : stores i = false) (hpops : pops i = true → b.count = 0) :
    SlotOne i p clock b b none
  /-- The test-access PUSH. -/
  | push (x : Sample) (hstores : stores i = true) (hticks : ticks i = false) (hwr : b.wr < p.n) :
    SlotOne i p clock b (b.pushed p.n x) none
  /-- A TICK. -/
  | tick (x : Sample) (hticks : ticks i = true) (hwr : b.wr < p.n) :
    SlotOne i p clock b (b.pushed p.n x).counted none
  /-- The test-access POP of a buffer that holds a sample. -/
  | pop (hpops : pops i = true) (hdrains : drains i = false) (hcount : b.count ≠ 0)
    (hrd : b.rd < p.n) : SlotOne i p clock b (b.popped p.n) none
  /-- A granted poll that does not complete the control cycle. -/
  | accumulate (hdrains : drains i = true) (hcount : b.count ≠ 0) (hrd : b.rd < p.n)
    (hk : b.k ≠ p.n - 1) :
    SlotOne i p clock b ((b.popped p.n).accumulated (Memory.read b.mem clock b.rd)) none
  /-- A granted poll that receives the N-th sample of the control cycle. -/
  | emit (hdrains : drains i = true) (hcount : b.count ≠ 0) (hrd : b.rd < p.n)
    (hk : b.k = p.n - 1) :
    SlotOne i p clock b (b.popped p.n).restarted
      (some (outRecord p (wrapS 16 (avg p.n (b.acc.toInt + sext (Memory.read b.mem clock b.rd))))
        b))

/-! ### The classes of instructions -/

theorem stores_of_ticks {i : Instr} (h : ticks i = true) : stores i = true := by
  cases i with
  | tick | tickQedge | tickDrain | tickDrainQedge => rfl
  | _ => cases h

theorem pops_of_drains {i : Instr} (h : drains i = true) : pops i = true := by
  cases i with
  | drain | drainQedge => rfl
  | _ => cases h

theorem not_stores_of_pops {i : Instr} (h : pops i = true) : stores i = false := by
  cases i with
  | drain | drainQedge | pop => rfl
  | _ => cases h

theorem not_drains_of_stores {i : Instr} (h : stores i = true) : drains i = false := by
  cases i with
  | drain | drainQedge => cases h
  | _ => rfl

theorem not_ticks_of_not_stores {i : Instr} (h : stores i = false) : ticks i = false := by
  cases i with
  | tick | tickQedge | tickDrain | tickDrainQedge => cases h
  | _ => rfl

/-! ### One lemma for each operation of the first slot -/

theorem SlotOne.of_noRecord_tick {i : Instr} {p : Params} {clock : Nat} {x : Sample} {b c : Block}
    {o : Option OutRecord} (hi : ticks i = true)
    (h : noRecord (Machine.tick p.n x b) = .ok (c, o)) : SlotOne i p clock b c o := by
  cases ht : Machine.tick p.n x b with
  | error f => simp [ht] at h
  | ok d =>
    obtain ⟨e, he, rfl⟩ := tick_eq_ok.mp ht
    obtain ⟨hwr, rfl⟩ := push_eq_ok_pushed.mp he
    obtain ⟨rfl, rfl⟩ := by simpa [ht] using h
    exact .tick x hi hwr

theorem SlotOne.of_noRecord_push {i : Instr} {p : Params} {clock : Nat} {x : Sample} {b c : Block}
    {o : Option OutRecord} (hi : stores i = true) (ht : ticks i = false)
    (h : noRecord (Machine.push p.n x b) = .ok (c, o)) : SlotOne i p clock b c o := by
  cases hp : Machine.push p.n x b with
  | error f => simp [hp] at h
  | ok d =>
    obtain ⟨hwr, rfl⟩ := push_eq_ok_pushed.mp hp
    obtain ⟨rfl, rfl⟩ := by simpa [hp] using h
    exact .push x hi ht hwr

theorem SlotOne.of_popEffect_pop {i : Instr} {p : Params} {clock : Nat} {b c : Block}
    {o : Option OutRecord} (hi : pops i = true) (hd : drains i = false)
    (h : popEffect (Machine.pop p.n clock b) = .ok (c, o)) : SlotOne i p clock b c o := by
  rcases hp : Machine.pop p.n clock b with f | ⟨r, d⟩
  · simp [hp, popEffect] at h
  · obtain ⟨rfl, rfl⟩ := by simpa [hp, popEffect] using h
    obtain ⟨hc, -, rfl⟩ | ⟨hc, hrd, -, rfl⟩ := pop_cases hp
    · exact .idle (not_stores_of_pops hi) fun _ => hc
    · exact .pop hi hd hc hrd

theorem SlotOne.of_drain {i : Instr} {p : Params} {clock : Nat} {b c : Block}
    {o : Option OutRecord} (hi : drains i = true) (h : Machine.drain p clock b = .ok (c, o)) :
    SlotOne i p clock b c o := by
  obtain ⟨hc, rfl, rfl⟩ | ⟨hc, hrd, ha⟩ := drain_cases h
  · exact .idle (not_stores_of_pops (pops_of_drains hi)) fun _ => hc
  · by_cases hk : b.k = p.n - 1
    · obtain ⟨rfl, rfl⟩ := Prod.mk.inj (ha.trans (absorb_last hk))
      exact .emit hi hc hrd hk
    · obtain ⟨rfl, rfl⟩ := Prod.mk.inj (ha.trans (absorb_more hk))
      exact .accumulate hi hc hrd hk

/-- What the first slot can answer. -/
theorem slotOne_cases {i : Instr} {p : Params} {clock : Nat} {b c : Block}
    {o : Option OutRecord} (h : slotOne i p clock b = .ok (c, o)) : SlotOne i p clock b c o := by
  cases i with
  | tick | tickQedge | tickDrain | tickDrainQedge => exact .of_noRecord_tick rfl h
  | drain | drainQedge => exact .of_drain rfl h
  | push => exact .of_noRecord_push rfl rfl h
  | pop => exact .of_popEffect_pop rfl rfl h
  | _ =>
    obtain ⟨rfl, rfl⟩ := Prod.mk.inj (Except.ok.inj h)
    exact .idle rfl (fun hp => by cases hp)

/-- What a clock can do: a RESET, or the first slot and then the second. -/
theorem exec_cases {i : Instr} {s t : State} (h : exec i s = .next t) :
    (∃ ab, i = .reset ab ∧ t = s.after (resetBlock ab s.block) none .none) ∨
      (isReset i = false ∧ ∃ b o, SlotOne i s.params s.clock s.block b o ∧
        t = s.after (slotTwo i b) o (answer i s)) := by
  obtain ⟨-, b, o, he, rfl⟩ := exec_eq_next.mp h
  cases hi : isReset i with
  | true =>
    cases i with
    | reset ab =>
      obtain ⟨rfl, rfl⟩ := Prod.mk.inj (Except.ok.inj he)
      exact .inl ⟨ab, rfl, rfl⟩
    | _ => cases hi
  | false =>
    rw [effect_eq_slots s hi] at he
    rcases hs : slotOne i s.params s.clock s.block with f | ⟨c, q⟩
    · simp [hs, Except.map] at he
    · obtain ⟨rfl, rfl⟩ := by simpa [hs, Except.map] using he
      exact .inr ⟨rfl, c, q, slotOne_cases hs, rfl⟩

/-! ## Frames (R37) and the outputs of a clock (R39, R71) -/

/-- Settles O34: each way the first slot can go writes only what its class of instruction names, and
the second slot writes only the decoder. -/
theorem registersChangeOnlyUnderTheirWriters :
    Obligations.RegistersChangeOnlyUnderTheirWriters := by
  intro i s t hr h
  obtain ⟨ab, rfl, -⟩ | ⟨-, b, o, hb, rfl⟩ := exec_cases h
  · cases hr
  have hdec (hd : reachesDecoder i = false) : slotTwo i b = b := slotTwo_of_not_reachesDecoder b hd
  cases hb with
  | idle => simp +contextual [hdec]
  | push _ hstores => simp +contextual [hdec, hstores]
  | tick _ hticks => simp +contextual [hdec, hticks, stores_of_ticks hticks]
  | pop hpops => simp +contextual [hdec, hpops]
  | accumulate hdrains | emit hdrains =>
    simp +contextual [hdec, hdrains, pops_of_drains hdrains]

/-- Settles O32: `mem` and `wr` change only under a PUSH. -/
theorem nonStoringFormsLeaveTheStorage : Obligations.NonStoringFormsLeaveTheStorage := by
  intro i s t hstores hreset h
  obtain ⟨hmem, hwr⟩ := (registersChangeOnlyUnderTheirWriters i s t hreset h).1 hstores
  exact ⟨fun a => by rw [hmem], hwr⟩

/-- Settles O36: of the ways a clock can go, only `SlotOne.emit` has a record, and the three
conditions together exclude the others. -/
theorem outValidExactlyOnTheNthSample : Obligations.OutValidExactlyOnTheNthSample := by
  intro i s t h
  obtain ⟨ab, rfl, rfl⟩ | ⟨-, b, o, hb, rfl⟩ := exec_cases h
  · simp [State.outValid, drains]
  cases hb with
  | idle hstores hpops =>
    have hempty (hd : drains i = true) := hpops (pops_of_drains hd)
    simpa [State.outValid] using fun hd hc _ => hc (hempty hd)
  | push _ hstores => simp [State.outValid, not_drains_of_stores hstores]
  | tick _ hticks => simp [State.outValid, not_drains_of_stores (stores_of_ticks hticks)]
  | pop hpops hdrains => simp [State.outValid, hdrains]
  | accumulate hdrains hcount hrd hk => simp [State.outValid, hk]
  | emit hdrains hcount hrd hk => simp [State.outValid, hdrains, hcount, hk]

/-- Settles O37: each data port shows the record that is there. -/
theorem validPortsCarryTheRecord : Obligations.ValidPortsCarryTheRecord := by
  intro s r h
  simp [State.outValid, State.dutyPort, State.altitudePort, State.altPercentPort, h]

/-- Settles O18: RESET is one clock whose effect is the reset block. -/
theorem resetSetsEveryRegister : Obligations.ResetSetsEveryRegister :=
  fun _ _ h => exec_of_effect h rfl

/-- Every instruction leaves the parameters, the queue of stimuli and the clock count to `step`. -/
theorem exec_environment {i : Instr} {s t : State} (h : exec i s = .next t) :
    t.params = s.params ∧ t.stimuli = s.stimuli ∧ t.clock = s.clock := by
  obtain ⟨-, b, o, -, rfl⟩ := exec_eq_next.mp h
  exact ⟨rfl, rfl, rfl⟩

/-- Settles O16: the clock is counted and its stimulus taken before the instruction runs, and the
instruction leaves all three. -/
theorem stepKeepsTheParameters : Obligations.StepKeepsTheParameters := by
  intro s t h
  obtain ⟨i, -, hexec⟩ := step_eq_next.mp h
  exact exec_environment hexec

/-! ## QEDGE commutes with the first slot (R61) -/

theorem push_qedge (n : Nat) (x : Sample) (ab : PhasePair) (b : Block) :
    push n x (qedge ab b) = (push n x b).map (qedge ab) := by
  by_cases h : b.wr < n
  · rw [push_eq_ok_pushed.mpr ⟨h, rfl⟩, push_eq_ok_pushed.mpr ⟨qedge_wr ab b ▸ h, rfl⟩]
    rfl
  · rw [push_eq_error.mpr ⟨h, rfl⟩, push_eq_error.mpr ⟨qedge_wr ab b ▸ h, rfl⟩]
    rfl

theorem tick_qedge (n : Nat) (x : Sample) (ab : PhasePair) (b : Block) :
    tick n x (qedge ab b) = (tick n x b).map (qedge ab) := by
  rw [tick, tick, push_qedge]
  rcases push n x b with f | c <;> rfl

theorem pop_qedge (n clock : Nat) (ab : PhasePair) (b : Block) :
    pop n clock (qedge ab b) = (pop n clock b).map fun c => (c.1, qedge ab c.2) := by
  by_cases hc : b.count = 0
  · rw [pop_empty hc, pop_empty (qedge_count ab b ▸ hc)]
    rfl
  by_cases h : b.rd < n
  · rw [pop_eq_popped hc h, pop_eq_popped (qedge_count ab b ▸ hc) (qedge_rd ab b ▸ h)]
    rfl
  · rw [pop_eq_error.mpr ⟨hc, h, rfl⟩,
      pop_eq_error.mpr ⟨qedge_count ab b ▸ hc, qedge_rd ab b ▸ h, rfl⟩]
    rfl

theorem absorb_qedge (p : Params) (x : Sample) (ab : PhasePair) (b : Block) :
    (absorb p x (qedge ab b)).1 = qedge ab (absorb p x b).1 := by
  by_cases hk : b.k = p.n - 1
  · rw [absorb_last hk, absorb_last (qedge_k ab b ▸ hk)]
    rfl
  · rw [absorb_more hk, absorb_more (qedge_k ab b ▸ hk)]
    rfl

theorem drain_qedge (p : Params) (clock : Nat) (ab : PhasePair) (b : Block) :
    (drain p clock (qedge ab b)).map Prod.fst =
      (drain p clock b).map fun c => qedge ab c.1 := by
  rw [drain, drain, pop_qedge]
  rcases pop p.n clock b with f | ⟨_ | x, c⟩
  · rfl
  · rfl
  · exact congrArg Except.ok (absorb_qedge p x ab c)

theorem noRecord_map_block (f : Block → Block) (r : Except Fault Block) :
    (noRecord r).map (fun c => f c.1) = r.map f := by
  rcases r with e | b <;> rfl

theorem popEffect_map_block (f : Block → Block) (r : Except Fault (Option Sample × Block)) :
    (popEffect r).map (fun c => f c.1) = r.map fun c => f c.2 := by
  rcases r with e | ⟨v, b⟩ <;> rfl

/-- A record shows `yaw`, so it is the nine items alone that commute. -/
theorem slotOne_qedge (i : Instr) (p : Params) (clock : Nat) (ab : PhasePair) (b : Block) :
    (slotOne i p clock (qedge ab b)).map Prod.fst =
      (slotOne i p clock b).map fun c => qedge ab c.1 := by
  cases i with
  | tick x | tickQedge x | tickDrain x | tickDrainQedge x =>
    refine (noRecord_map_block id _).trans (Eq.trans ?_ (noRecord_map_block (qedge ab) _).symm)
    rw [Except.map_id, id, tick_qedge]
  | push x =>
    refine (noRecord_map_block id _).trans (Eq.trans ?_ (noRecord_map_block (qedge ab) _).symm)
    rw [Except.map_id, id, push_qedge]
  | pop =>
    refine (popEffect_map_block id _).trans (Eq.trans ?_ (popEffect_map_block (qedge ab) _).symm)
    rw [pop_qedge]
    rcases pop p.n clock b with f | ⟨r, c⟩ <;> rfl
  | drain | drainQedge => exact drain_qedge p clock ab b
  | _ => rfl

/-- The nine items after an instruction with nothing in the second slot. -/
theorem exec_block_of_not_reachesDecoder {i : Instr} {s t : State} (hr : isReset i = false)
    (hd : reachesDecoder i = false) (h : exec i s = .next t) :
    (slotOne i s.params s.clock s.block).map Prod.fst = .ok t.block := by
  obtain ⟨-, b, o, he, rfl⟩ := exec_eq_next.mp h
  rw [effect_eq_slots s hr] at he
  rcases hs : slotOne i s.params s.clock s.block with f | ⟨c, q⟩
  · simp [hs, Except.map] at he
  · obtain ⟨rfl, -⟩ := by simpa [hs, Except.map] using he
    exact congrArg Except.ok (slotTwo_of_not_reachesDecoder c hd).symm

/-- Settles O43: the instruction is its first slot, which commutes with QEDGE. -/
theorem qedgeCommutesWithTheOtherAgents : Obligations.QedgeCommutesWithTheOtherAgents := by
  intro i ab s s1 s2 u1 u2 hr hd hs1 hs2 hu1 hu2
  obtain ⟨-, b, o, hb, rfl⟩ := exec_eq_next.mp hs1
  obtain ⟨rfl, -⟩ := Prod.mk.inj (Except.ok.inj hb)
  obtain ⟨-, c, q, hc, rfl⟩ := exec_eq_next.mp hu2
  obtain ⟨rfl, -⟩ := Prod.mk.inj (Except.ok.inj hc)
  have first := exec_block_of_not_reachesDecoder hr hd hs2
  have later := exec_block_of_not_reachesDecoder hr hd hu1
  rw [after_params, after_block, after_clock, slotOne_qedge] at first
  rw [← Except.ok.injEq]
  calc Except.ok s2.block
      = (slotOne i s.params s.clock s.block).map (fun c => qedge ab c.1) := first.symm
    _ = ((slotOne i s.params s.clock s.block).map Prod.fst).map (qedge ab) := by
        rcases slotOne i s.params s.clock s.block with f | c <;> rfl
    _ = .ok (qedge ab u1.block) := congrArg (Except.map (qedge ab)) later

/-! ## The ports of a record (R71, R150, R151, R153) -/

/-- A value in the signed range is stored as it is. -/
theorem toInt_wrapS {w : Nat} (hw : 0 < w) {v : Int} (hlo : -2 ^ (w - 1) ≤ v)
    (hhi : v < 2 ^ (w - 1)) : (wrapS w v).toInt = v :=
  BitVec.toInt_ofInt_eq_self hw hlo hhi

theorem sext_bounds (x : Sample) : -32768 ≤ sext x ∧ sext x ≤ 32767 := by
  have hlo : -2 ^ 15 ≤ sext x := BitVec.le_toInt x
  have hhi : sext x < 2 ^ 15 := BitVec.toInt_lt
  omega

theorem clamp_mem {lo hi : Int} (h : lo ≤ hi) (v : Int) :
    lo ≤ clamp v lo hi ∧ clamp v lo hi ≤ hi := by
  unfold clamp
  split_ifs <;> omega

/-- R153. -/
theorem duty_mem (p : Params) (v : Sample) : 5 ≤ duty p v ∧ duty p v ≤ 95 :=
  clamp_mem (by decide) _

/-- DUTY fits its port. -/
theorem dutyPort_toNat (p : Params) (v : Sample) : ((dutyPort p v).toNat : Int) = duty p v := by
  obtain ⟨hlo, hhi⟩ := duty_mem p v
  rw [dutyPort, wrapS, BitVec.toNat_ofInt]
  omega

/-- PCT fits its port: `|v * SCALE_NUM| < 2^30`, and the division makes it no larger (R150). -/
theorem pctPort_toInt {p : Params} (h : p.legal = true) (v : Sample) :
    (pctPort p v).toInt = pct p v := by
  obtain ⟨-, -, -, hnum, -, -⟩ := p.legal_iff.mp h
  have hv : (sext v).natAbs ≤ 32768 := by have := sext_bounds v; omega
  have habs : (pct p v).natAbs ≤ 32768 * 32767 :=
    calc (pct p v).natAbs ≤ (sext v * p.scaleNum).natAbs := Int.natAbs_tdiv_le_natAbs _ _
      _ = (sext v).natAbs * p.scaleNum := by rw [Int.natAbs_mul, Int.natAbs_natCast]
      _ ≤ 32768 * 32767 := Nat.mul_le_mul hv hnum
  exact toInt_wrapS (by decide) (by omega) (by omega)

/-! ## The invariant (R25, R27, R28, R35, R197) -/

/-- What the invariant says of the nine items. -/
structure Block.Good (n : Nat) (b : Block) : Prop where
  storage : b.storageOk n
  buffer : b.bufferOk n
  written : b.unreadWritten n
  cycle : b.cycleOk n

theorem State.inv_iff (s : State) :
    s.Inv ↔ s.params.legal = true ∧ s.block.Good s.params.n ∧ s.outputs.recordOk s.params :=
  ⟨fun ⟨hl, hs, hb, hw, hc, hp⟩ => ⟨hl, ⟨hs, hb, hw, hc⟩, hp⟩,
    fun ⟨hl, ⟨hs, hb, hw, hc⟩, hp⟩ => ⟨hl, hs, hb, hw, hc, hp⟩⟩

/-- After RESET nothing is stored, unread or accumulated. -/
theorem afterReset_good {n : Nat} (hn : 1 ≤ n) (ab : PhasePair) :
    (Block.afterReset ab).Good n where
  storage := ⟨rfl, rfl⟩
  buffer := ⟨Nat.zero_le n, hn, hn, (Nat.zero_mod n).symm⟩
  written := fun _ hj => absurd hj (Nat.not_lt_zero _)
  cycle := ⟨hn, by simp, by simp⟩

theorem pushed_good {n : Nat} {b : Block} (x : Sample) (h : b.Good n) : (b.pushed n x).Good n where
  storage := ⟨Memory.write_wf b.wr x h.storage.1, Memory.write_within x h.storage.2 h.buffer.wr_lt⟩
  buffer := pushed_bufferOk x h.buffer
  written := by
    have hold := (unreadWritten_iff n b).mp h.written
    rw [unreadWritten_iff, unread_pushed x h.buffer]
    intro e he
    obtain he | rfl := mem_or_eq_of_mem_queuePush he
    · exact hold e he
    · rfl
  cycle := h.cycle

theorem popped_good {n : Nat} {b : Block} (h : b.Good n) (hc : b.count ≠ 0) :
    (b.popped n).Good n where
  storage := h.storage
  buffer := popped_bufferOk h.buffer hc
  written := by
    have hold := (unreadWritten_iff n b).mp h.written
    rw [unread_eq_cons_popped hc h.buffer.rd_lt, List.forall_mem_cons] at hold
    exact (unreadWritten_iff n _).mpr hold.2
  cycle := h.cycle

theorem counted_good {n : Nat} {b : Block} (h : b.Good n) : b.counted.Good n :=
  ⟨h.storage, h.buffer, h.written, h.cycle⟩

/-- A control cycle that starts again has received no sample and has an empty sum. -/
theorem restarted_good {n : Nat} {b : Block} (h : b.Good n) : b.restarted.Good n where
  storage := h.storage
  buffer := h.buffer
  written := h.written
  cycle := ⟨Nat.zero_lt_of_lt h.cycle.1, by simp, by simp⟩

/-- The running sum of at most `N - 1` samples and one more do not wrap (R27). -/
theorem accumulated_acc_toInt {n : Nat} {b : Block} (hn : n ≤ 65536) (h : b.cycleOk n)
    (x : Sample) : (b.accumulated x).acc.toInt = b.acc.toInt + sext x := by
  obtain ⟨hk, hlo, hhi⟩ := h
  have hx := sext_bounds x
  exact toInt_wrapS (by decide) (by omega) (by omega)

theorem accumulated_good {n : Nat} {b : Block} (hn : n ≤ 65536) (h : b.Good n)
    (hk : b.k ≠ n - 1) (x : Sample) : (b.accumulated x).Good n where
  storage := h.storage
  buffer := h.buffer
  written := h.written
  cycle := by
    have hacc := accumulated_acc_toInt hn h.cycle x
    have hx := sext_bounds x
    obtain ⟨hlt, hlo, hhi⟩ := h.cycle
    rw [Block.cycleOk, hacc, Block.accumulated_k]
    refine ⟨by omega, ?_, ?_⟩ <;> push_cast <;> omega

theorem slotTwo_good {n : Nat} {b : Block} (i : Instr) (h : b.Good n) : (slotTwo i b).Good n where
  storage := by simpa [Block.storageOk] using h.storage
  buffer := by simpa [Block.bufferOk] using h.buffer
  written := by simpa [Block.unreadWritten] using h.written
  cycle := by simpa [Block.cycleOk] using h.cycle

/-- The first slot keeps the block good. -/
theorem SlotOne.good {i : Instr} {p : Params} {clock : Nat} {b c : Block} {o : Option OutRecord}
    (h : SlotOne i p clock b c o) (hp : p.legal = true) (hb : b.Good p.n) : c.Good p.n := by
  obtain ⟨-, hn, -⟩ := p.legal_iff.mp hp
  cases h with
  | idle => exact hb
  | push x => exact pushed_good x hb
  | tick x => exact counted_good (pushed_good x hb)
  | pop _ _ hc => exact popped_good hb hc
  | accumulate _ hc _ hk => exact accumulated_good hn (popped_good hb hc) hk _
  | emit _ hc => exact restarted_good (popped_good hb hc)

/-- The ports after a clock without a record carry no wrong one. -/
theorem recordOk_after_none (p : Params) (s : State) (b : Block) (r : Response) :
    (s.after b none r).outputs.recordOk p := by
  intro q hq
  cases hq

/-- The record of an average, on the ports of a clock that starts in `s` (R71, R158). -/
theorem recordOk_after_outRecord {s : State} (h : s.params.legal = true) (a : Sample) (b : Block)
    (r : Response) :
    (s.after b (some (outRecord s.params a s.block)) r).outputs.recordOk s.params := by
  rintro q ⟨⟩
  have hport := dutyPort_toNat s.params a
  have hduty := duty_mem s.params a
  refine ⟨?_, hport, pctPort_toInt h a, rfl, rfl, rfl⟩
  simp only [outRecord_duty]
  omega

/-- Every instruction keeps the invariant. -/
theorem exec_keeps_inv {i : Instr} {s t : State} (hs : s.Inv) (h : exec i s = .next t) :
    t.Inv := by
  obtain ⟨hl, hb, -⟩ := s.inv_iff.mp hs
  obtain ⟨hn, -⟩ := s.params.legal_iff.mp hl
  rw [State.inv_iff]
  obtain ⟨ab, -, rfl⟩ | ⟨-, b, o, hslot, rfl⟩ := exec_cases h
  · exact ⟨hl, afterReset_good hn ab, recordOk_after_none _ _ _ _⟩
  · refine ⟨hl, slotTwo_good i (hslot.good hl hb), ?_⟩
    cases hslot with
    | emit => exact recordOk_after_outRecord hl _ _ _
    | _ => exact recordOk_after_none _ _ _ _

/-- Settles O12: a step is an instruction on the advanced state, which is as good as the state. -/
theorem stepKeepsTheInvariant : Obligations.StepKeepsTheInvariant := by
  intro s t hs h
  obtain ⟨i, -, hexec⟩ := step_eq_next.mp h
  have hadvance : s.advance.Inv := ⟨hs.legal, hs.storage, hs.buffer, hs.written, hs.cycle, hs.ports⟩
  exact exec_keeps_inv hadvance hexec

theorem resetWith_inv {p : Params} (h : p.legal = true) (ab : PhasePair) :
    (State.resetWith p ab).Inv := by
  obtain ⟨hn, -⟩ := p.legal_iff.mp h
  exact (State.inv_iff _).mpr ⟨h, afterReset_good hn ab, fun r hr => by cases hr⟩

/-- Settles O13: `State.reset` is the machine right after reset with legal parameters. -/
theorem resetMeetsTheInvariant : Obligations.ResetMeetsTheInvariant :=
  ⟨fun _ ab h => resetWith_inv h ab, resetWith_inv (by decide) 0⟩

/-! ## Runs without a RESET, one instruction more at a time (R197) -/

/-- A run of one instruction more is the run, then that instruction. -/
theorem runInstrs_snoc {is : List Instr} {i : Instr} {s t : State} :
    runInstrs (is ++ [i]) s = .next t ↔ ∃ u, runInstrs is s = .next u ∧ exec i u = .next t := by
  induction is generalizing s with
  | nil =>
    simp only [List.nil_append, runInstrs]
    cases hi : exec i s <;> simp [hi]
  | cons j rest ih =>
    simp only [List.cons_append, runInstrs]
    cases exec j s with
    | next u => exact ih
    | fault f | refused r => simp

/-- What is collected over a run of one instruction more. -/
theorem collect_snoc {α : Type} (f : Instr → State → List α) {is : List Instr} (i : Instr)
    {s u : State} (h : runInstrs is s = .next u) :
    collect f (is ++ [i]) s = collect f is s ++ f i u := by
  induction is generalizing s with
  | nil =>
    obtain rfl := Host.Outcome.next.inj h
    simp only [List.nil_append, collect]
    cases exec i s <;> simp
  | cons j rest ih =>
    simp only [runInstrs] at h
    simp only [List.cons_append, collect]
    cases hj : exec j s with
    | next v =>
      rw [hj] at h
      simp [ih h]
    | fault e | refused e => simp [hj] at h

/-- What holds at the start of a run, and after one instruction more, none of them a RESET, holds at
its end; `motive` may speak of the instructions up to there. -/
theorem runInstrs_induction {s₀ : State} {motive : List Instr → State → Prop}
    (start : motive [] s₀)
    (snoc : ∀ is i s t, isReset i = false → runInstrs is s₀ = .next s → motive is s →
      exec i s = .next t → motive (is ++ [i]) t)
    {is : List Instr} (hr : ∀ i ∈ is, isReset i = false) {t : State}
    (h : runInstrs is s₀ = .next t) : motive is t := by
  induction is using List.reverseRecOn generalizing t with
  | nil =>
    obtain rfl := Host.Outcome.next.inj h
    exact start
  | append_singleton is i ih =>
    obtain ⟨u, hu, hi⟩ := runInstrs_snoc.mp h
    have hbefore := ih (fun j hj => hr j (List.mem_append_left _ hj)) hu
    exact snoc is i u t (hr i (by simp)) hu hbefore hi

/-! ## The Sample Counter (R26) -/

/-- The counter counts the instruction if it is a TICK. -/
theorem exec_sampleCount {i : Instr} {s t : State} (hr : isReset i = false)
    (h : exec i s = .next t) :
    t.block.sampleCount =
      if ticks i = true then wrapU 32 (s.block.sampleCount.toNat + 1) else s.block.sampleCount := by
  obtain ⟨ab, rfl, -⟩ | ⟨-, b, o, hb, rfl⟩ := exec_cases h
  · cases hr
  rw [after_block, slotTwo_sampleCount]
  cases hb with
  | idle hstores => simp [not_ticks_of_not_stores hstores]
  | push x hstores hticks => simp [hticks]
  | tick x hticks => simp [hticks]
  | pop hpops => simp [not_ticks_of_not_stores (not_stores_of_pops hpops)]
  | accumulate hdrains | emit hdrains =>
    simp [not_ticks_of_not_stores (not_stores_of_pops (pops_of_drains hdrains))]

/-- Settles O48: every instruction of the run counts itself if it is a TICK. -/
theorem sampleCounterCountsTicks : Obligations.SampleCounterCountsTicks := by
  intro p ab0 is t hr h
  refine runInstrs_induction (motive := fun is t =>
    t.block.sampleCount = BitVec.ofNat 32 (is.countP ticks)) rfl ?_ hr h
  intro is i s t hi _ hs hexec
  rw [exec_sampleCount hi hexec, hs, List.countP_append, List.countP_singleton]
  split
  · apply BitVec.eq_of_toNat_eq
    simp [wrapU]
  · rfl

/-! ## The engine's samples and records (R135, R136, R139) -/

/-- The sum of a list of samples. -/
def sumOf (xs : List Sample) : Int := (xs.map sext).sum

@[simp] theorem sumOf_nil : sumOf [] = 0 := rfl

@[simp] theorem sumOf_append_singleton (xs : List Sample) (x : Sample) :
    sumOf (xs ++ [x]) = sumOf xs + sext x := by
  simp [sumOf]

/-- Block `j` of `n` samples. -/
def blockAt (n j : Nat) (xs : List Sample) : List Sample := (xs.drop (j * n)).take n

/-- A block that is there stays the same when more samples arrive. -/
theorem blockAt_append {n j : Nat} {xs : List Sample} (ys : List Sample)
    (h : (j + 1) * n ≤ xs.length) : blockAt n j (xs ++ ys) = blockAt n j xs := by
  rw [Nat.succ_mul] at h
  rw [blockAt, blockAt, List.drop_append_of_le_length (by omega),
    List.take_append_of_le_length (by rw [List.length_drop]; omega)]

/-- The last block of a list that is made of whole blocks is all that is left. -/
theorem blockAt_last {n j : Nat} {xs : List Sample} (h : xs.length = (j + 1) * n) :
    blockAt n j xs = xs.drop (j * n) :=
  List.take_of_length_le (by rw [List.length_drop, h, Nat.succ_mul]; omega)

/-- AVG of a sum of `n` samples fits a Sample (R135). -/
theorem avg_toInt {n : Nat} (hn : 1 ≤ n) {v : Int} (hlo : -32768 * (n : Int) ≤ v)
    (hhi : v ≤ 32767 * (n : Int)) : (wrapS 16 (avg n v)).toInt = v.tdiv n := by
  have hpos : (0 : Int) < n := by omega
  have hmin : -32768 ≤ avg n v :=
    (Int.mul_tdiv_cancel _ hpos.ne').symm.trans_le (Int.tdiv_le_tdiv hpos hlo)
  have hmax : avg n v ≤ 32767 :=
    (Int.tdiv_le_tdiv hpos hhi).trans_eq (Int.mul_tdiv_cancel _ hpos.ne')
  exact toInt_wrapS (by decide) (by omega) (by omega)

/-- What the engine has done with the samples `xs` it received since RESET: `rs` are its records. -/
structure EngineHistory (n : Nat) (xs : List Sample) (rs : List OutRecord) (b : Block) : Prop where
  /-- Every record took `n` samples, and the last `k` are not in a record yet. -/
  length : xs.length = b.k + rs.length * n
  /-- `acc` is the sum of these `k`. -/
  acc : b.acc.toInt = sumOf (xs.drop (rs.length * n))
  /-- Record `j` carries the average of block `j`. -/
  average : ∀ j r, rs[j]? = some r → r.altitude.toInt = (sumOf (blockAt n j xs)).tdiv n

namespace EngineHistory

variable {n : Nat} {xs : List Sample} {rs : List OutRecord} {b c : Block} {x : Sample}

theorem start (n : Nat) (ab : PhasePair) : EngineHistory n [] [] (Block.afterReset ab) where
  length := by simp
  acc := by simp
  average := by simp

/-- The samples of an emitted record have all arrived. -/
theorem block_arrived (h : EngineHistory n xs rs b) {j : Nat} {r : OutRecord}
    (hr : rs[j]? = some r) : (j + 1) * n ≤ xs.length :=
  calc (j + 1) * n ≤ rs.length * n :=
        Nat.mul_le_mul_right n (List.getElem?_eq_some_iff.mp hr).1
    _ ≤ xs.length := by rw [h.length]; exact Nat.le_add_left _ _

/-- The sum of the samples since the last record, and one more. -/
theorem sumOf_snoc (h : EngineHistory n xs rs b) (x : Sample) :
    sumOf ((xs ++ [x]).drop (rs.length * n)) = b.acc.toInt + sext x := by
  rw [List.drop_append_of_le_length (by rw [h.length]; exact Nat.le_add_left _ _),
    sumOf_append_singleton, h.acc]

/-- A clock in which the engine receives nothing. -/
theorem idle (h : EngineHistory n xs rs b) (hk : c.k = b.k) (hacc : c.acc = b.acc) :
    EngineHistory n xs rs c where
  length := by rw [hk, h.length]
  acc := by rw [hacc, h.acc]
  average := h.average

/-- A sample that does not complete the control cycle. -/
theorem accumulate (h : EngineHistory n xs rs b) (hk : c.k = b.k + 1)
    (hacc : c.acc.toInt = b.acc.toInt + sext x) : EngineHistory n (xs ++ [x]) rs c where
  length := by rw [List.length_append, List.length_singleton, h.length, hk]; omega
  acc := by rw [h.sumOf_snoc, hacc]
  average j r hr := by rw [blockAt_append _ (h.block_arrived hr), h.average j r hr]

/-- The sample that completes the control cycle: the new record's block is what `acc` summed up. -/
theorem emit (h : EngineHistory n xs rs b) (hb : b.k + 1 = n) (hk : c.k = 0) (hacc : c.acc = 0)
    {q : OutRecord} (hq : q.altitude.toInt = (b.acc.toInt + sext x).tdiv n) :
    EngineHistory n (xs ++ [x]) (rs ++ [q]) c := by
  have hlen : (xs ++ [x]).length = (rs.length + 1) * n := by
    rw [List.length_append, List.length_singleton, h.length, Nat.succ_mul]
    omega
  refine ⟨by rw [hlen, hk, List.length_append, List.length_singleton, Nat.zero_add], ?_, ?_⟩
  · rw [List.drop_of_length_le (by rw [hlen, List.length_append, List.length_singleton]), hacc]
    rfl
  · intro j r hr
    rw [List.getElem?_append] at hr
    split at hr
    · rw [blockAt_append _ (h.block_arrived hr), h.average j r hr]
    · obtain ⟨hj, rfl⟩ : j - rs.length = 0 ∧ q = r := by
        simpa [List.getElem?_singleton] using hr
      obtain rfl : j = rs.length := by omega
      rw [blockAt_last hlen, h.sumOf_snoc, hq]

end EngineHistory

/-- The engine receives a sample only where it polls. -/
theorem drainedBy_of_not_drains {i : Instr} (s : State) (h : drains i = false) :
    drainedBy i s = [] := by
  cases i with
  | drain | drainQedge => cases h
  | _ => rfl

theorem drainedBy_of_empty {i : Instr} {s : State} (h : s.block.count = 0) :
    drainedBy i s = [] := by
  cases i with
  | drain | drainQedge => simp [drainedBy, popResult, pop_empty h]
  | _ => rfl

theorem drainedBy_of_drains {i : Instr} {s : State} (h : drains i = true)
    (hc : s.block.count ≠ 0) (hr : s.block.rd < s.params.n) :
    drainedBy i s = [Memory.read s.block.mem s.clock s.block.rd] := by
  cases i with
  | drain | drainQedge => simp [drainedBy, popResult, pop_some hc hr]
  | _ => cases h

theorem recordBy_of_exec {i : Instr} {s t : State} (h : exec i s = .next t) :
    recordBy i s = t.outputs.record.toList := by
  rw [recordBy, h]

/-- One instruction more in the history of the engine. -/
theorem exec_extends_history {i : Instr} {s t : State} {xs : List Sample} {rs : List OutRecord}
    (h : EngineHistory s.params.n xs rs s.block) (hs : s.Inv) (hr : isReset i = false)
    (hexec : exec i s = .next t) :
    EngineHistory s.params.n (xs ++ drainedBy i s) (rs ++ recordBy i s) t.block := by
  have hrec := recordBy_of_exec hexec
  obtain ⟨ab, rfl, -⟩ | ⟨-, b, o, hb, rfl⟩ := exec_cases hexec
  · cases hr
  obtain ⟨hn, hmax, -⟩ := s.params.legal_iff.mp hs.legal
  rw [hrec, after_outputs_record, after_block]
  cases hb with
  | idle hstores hpops =>
    have hd : drainedBy i s = [] := by
      cases hd : drains i with
      | true => exact drainedBy_of_empty (hpops (pops_of_drains hd))
      | false => exact drainedBy_of_not_drains s hd
    simpa [hd] using h.idle (by simp) (by simp)
  | push x hstores =>
    simpa [drainedBy_of_not_drains s (not_drains_of_stores hstores)] using
      h.idle (by simp) (by simp)
  | tick x hticks =>
    simpa [drainedBy_of_not_drains s (not_drains_of_stores (stores_of_ticks hticks))] using
      h.idle (by simp) (by simp)
  | pop hpops hdrains =>
    simpa [drainedBy_of_not_drains s hdrains] using h.idle (by simp) (by simp)
  | accumulate hdrains hcount hrd hk =>
    rw [drainedBy_of_drains hdrains hcount hrd, Option.toList_none, List.append_nil]
    refine h.accumulate (by simp) ?_
    rw [slotTwo_acc]
    exact accumulated_acc_toInt (b := s.block.popped s.params.n) hmax hs.cycle _
  | emit hdrains hcount hrd hk =>
    rw [drainedBy_of_drains hdrains hcount hrd, Option.toList_some]
    refine h.emit (by omega) (by simp) (by simp) ?_
    have hx := sext_bounds (Memory.read s.block.mem s.clock s.block.rd)
    obtain ⟨-, hlo, hhi⟩ := hs.cycle
    exact avg_toInt hn (by omega) (by omega)

/-- The engine's history over a run from reset, in which the invariant holds and the parameters
stay. -/
theorem engineHistory_of_run {p : Params} (hp : p.legal = true) (ab0 : PhasePair)
    {is : List Instr} {t : State} (hr : ∀ i ∈ is, isReset i = false)
    (h : runInstrs is (State.resetWith p ab0) = .next t) :
    t.Inv ∧ t.params = p ∧
      EngineHistory p.n (collect drainedBy is (State.resetWith p ab0))
        (collect recordBy is (State.resetWith p ab0)) t.block := by
  refine runInstrs_induction (motive := fun is t => t.Inv ∧ t.params = p ∧
    EngineHistory p.n (collect drainedBy is (State.resetWith p ab0))
      (collect recordBy is (State.resetWith p ab0)) t.block)
    ⟨resetWith_inv hp ab0, rfl, EngineHistory.start p.n ab0⟩ ?_ hr h
  rintro is i s t hi hrun ⟨hinv, rfl, hist⟩ hexec
  rw [collect_snoc drainedBy i hrun, collect_snoc recordBy i hrun]
  exact ⟨exec_keeps_inv hinv hexec, (exec_environment hexec).1,
    exec_extends_history hist hinv hi hexec⟩

/-- Settles O47: the history says it with the number of records; as `k < N`, that number and `k` are
the quotient and the remainder of the number of samples. -/
theorem recordsAreBlockAverages : Obligations.RecordsAreBlockAverages := by
  rintro p ab0 is t hp hr h xs rs rfl rfl
  obtain ⟨hinv, rfl, hist⟩ := engineHistory_of_run hp ab0 hr h
  have hk : t.block.k < t.params.n := hinv.cycle.1
  have hlen := hist.length
  rw [Nat.mul_comm] at hlen
  obtain ⟨hquot, hrem⟩ := (Nat.div_mod_unique (Nat.zero_lt_of_lt hk)).mpr ⟨hlen.symm, hk⟩
  exact ⟨hquot.symm, hist.average, hrem.symm, by rw [hquot]; exact hist.acc⟩

end Sys2Proof.Machine

/-! # PROOFS. The storage (spec/20_memory.md): what the storing and the popping forms do to it, what
the ports show, the samples delivered over a run, and runs seen as interleavings of single
operations. -/

namespace Sys2Proof.Machine

/-! ## The storing and the popping forms (R50, R51) -/

theorem not_reset_of_stores {i : Instr} (h : stores i = true) : isReset i = false := by
  cases i with
  | reset => cases h
  | _ => rfl

theorem not_reset_of_pops {i : Instr} (h : pops i = true) : isReset i = false := by
  cases i with
  | reset => cases h
  | _ => rfl

theorem not_pops_of_stores {i : Instr} (h : stores i = true) : pops i = false := by
  cases i with
  | drain | drainQedge | pop => cases h
  | _ => rfl

/-- The first slot of a storing form is a PUSH or a TICK of the sample it carries. -/
theorem slotOne_of_stores {i : Instr} (h : stores i = true) :
    ∃ x, (∀ s, pushedBy i s = [x]) ∧ ∀ p clock b,
      slotOne i p clock b = noRecord (push p.n x b) ∨
        slotOne i p clock b = noRecord (tick p.n x b) := by
  cases i with
  | push x => exact ⟨x, fun _ => rfl, fun _ _ _ => .inl rfl⟩
  | tick x | tickQedge x | tickDrain x | tickDrainQedge x =>
    exact ⟨x, fun _ => rfl, fun _ _ _ => .inr rfl⟩
  | _ => cases h

/-- The first slot of a popping form is a POP or a DRAIN. -/
theorem slotOne_of_pops {i : Instr} (h : pops i = true) (p : Params) (clock : Nat) (b : Block) :
    slotOne i p clock b = popEffect (pop p.n clock b) ∨ slotOne i p clock b = drain p clock b := by
  cases i with
  | pop => exact .inl rfl
  | drain | drainQedge => exact .inr rfl
  | _ => cases h

/-- A clock that completes is its first slot, then its second. -/
theorem exec_eq_slots {i : Instr} {s t : State} (hr : isReset i = false)
    (h : exec i s = .next t) :
    ∃ b o, slotOne i s.params s.clock s.block = .ok (b, o) ∧ t.block = slotTwo i b := by
  obtain ⟨-, b, o, he, rfl⟩ := exec_eq_next.mp h
  rw [effect_eq_slots s hr] at he
  rcases hs : slotOne i s.params s.clock s.block with f | ⟨c, q⟩
  · simp [hs, Except.map] at he
  · obtain ⟨rfl, -⟩ := by simpa [hs, Except.map] using he
    exact ⟨c, q, rfl, rfl⟩

theorem noRecord_eq_ok {r : Except Fault Block} {b : Block} {o : Option OutRecord} :
    noRecord r = .ok (b, o) ↔ r = .ok b ∧ o = none := by
  cases r <;> simp [eq_comm]

/-- What a storing form leaves: the block after the PUSH of its sample, the firing counted if it is
a TICK, then the second slot. -/
theorem exec_of_stores {i : Instr} {s t : State} (hi : stores i = true)
    (h : exec i s = .next t) :
    ∃ x b, pushedBy i s = [x] ∧ t.block = slotTwo i b ∧
      (b = s.block.pushed s.params.n x ∨ b = (s.block.pushed s.params.n x).counted) := by
  obtain ⟨x, hx, hslot⟩ := slotOne_of_stores hi
  obtain ⟨b, o, hb, ht⟩ := exec_eq_slots (not_reset_of_stores hi) h
  refine ⟨x, b, hx s, ht, ?_⟩
  obtain hslot | hslot := hslot s.params s.clock s.block
  · obtain ⟨hpush, -⟩ := noRecord_eq_ok.mp (hslot.symm.trans hb)
    exact .inl (push_eq_ok_pushed.mp hpush).2
  · obtain ⟨htick, -⟩ := noRecord_eq_ok.mp (hslot.symm.trans hb)
    obtain ⟨c, hpush, rfl⟩ := tick_eq_ok.mp htick
    obtain ⟨-, rfl⟩ := push_eq_ok_pushed.mp hpush
    exact .inr rfl

/-- Settles O33: TICK's counting and the second slot leave `mem` as the PUSH wrote it. -/
theorem storingFormsWriteOnlyTheirEntry : Obligations.StoringFormsWriteOnlyTheirEntry := by
  intro i s t hi h
  obtain ⟨x, b, hx, ht, hb⟩ := exec_of_stores hi h
  have hmem : t.block.mem = Memory.write s.block.mem s.block.wr x := by
    rw [ht, slotTwo_mem]
    obtain rfl | rfl := hb <;> rfl
  rw [hmem]
  exact ⟨⟨x, hx, Memory.read?_write_same _ _ _⟩, fun a ha => Memory.read?_write_other _ x ha⟩

/-! ## Accesses outside the storage (R51, log 8) -/

/-- A first slot that faults is a clock that faults. -/
theorem exec_of_slotOne_error {i : Instr} {s : State} {f : Fault} (hl : s.params.legal = true)
    (hr : isReset i = false) (h : slotOne i s.params s.clock s.block = .error f) :
    exec i s = .fault f :=
  exec_of_effect_error hl (by rw [effect_eq_slots s hr, h]; rfl)

theorem slotOne_error_of_stores {i : Instr} {p : Params} {b : Block} (clock : Nat)
    (hi : stores i = true) (hwr : ¬ b.wr < p.n) :
    slotOne i p clock b = .error (.noSuchEntry b.wr) := by
  obtain ⟨x, -, hslot⟩ := slotOne_of_stores hi
  obtain h | h := hslot p clock b
  · rw [h, push_eq_error.mpr ⟨hwr, rfl⟩, noRecord_error]
  · rw [h, tick_eq_error.mpr ⟨hwr, rfl⟩, noRecord_error]

theorem slotOne_error_of_pops {i : Instr} {p : Params} {b : Block} (clock : Nat)
    (hi : pops i = true) (hc : b.count ≠ 0) (hrd : ¬ b.rd < p.n) :
    slotOne i p clock b = .error (.noSuchEntry b.rd) := by
  obtain h | h := slotOne_of_pops hi p clock b
  · rw [h, pop_eq_error.mpr ⟨hc, hrd, rfl⟩, popEffect]
  · rw [h, drain_eq_error.mpr ⟨hc, hrd, rfl⟩]

/-- Settles O31: the access is in the first slot, whose fault is the clock's. -/
theorem accessOutsideTheStorageFaults : Obligations.AccessOutsideTheStorageFaults :=
  fun _ s hl =>
    ⟨fun hi hwr => exec_of_slotOne_error hl (not_reset_of_stores hi)
        (slotOne_error_of_stores s.clock hi hwr),
      fun hi hc hrd => exec_of_slotOne_error hl (not_reset_of_pops hi)
        (slotOne_error_of_pops s.clock hi hc hrd)⟩

/-! ## The ports of a clock (R57, R71) -/

/-- A record carries what the continuous ports show in its clock. -/
theorem record_of_exec {i : Instr} {s t : State} {r : OutRecord} (h : exec i s = .next t)
    (hr : t.outputs.record = some r) : ∃ a, r = outRecord s.params a s.block := by
  obtain ⟨ab, -, rfl⟩ | ⟨-, b, o, hb, rfl⟩ := exec_cases h
  · cases hr
  rw [after_outputs_record] at hr
  cases hb with
  | emit => exact ⟨_, (Option.some.inj hr).symm⟩
  | _ => cases hr

/-- Settles O35: the ports of a clock are made from the state it starts in, and so is its record. -/
theorem portsShowTheStartOfTheClock : Obligations.PortsShowTheStartOfTheClock := by
  intro i s t h
  obtain ⟨-, b, o, -, ht⟩ := exec_eq_next.mp h
  refine ⟨by rw [ht]; rfl, by rw [ht]; rfl, by rw [ht]; rfl, fun r hr => ?_⟩
  obtain ⟨a, rfl⟩ := record_of_exec h hr
  exact ⟨rfl, rfl, rfl⟩

/-! ## A run, its first instruction first (R58) -/

theorem runInstrs_cons {i : Instr} {is : List Instr} {s t : State} :
    runInstrs (i :: is) s = .next t ↔ ∃ u, exec i s = .next u ∧ runInstrs is u = .next t := by
  rw [runInstrs]
  cases exec i s <;> simp

theorem collect_cons {α : Type} (f : Instr → State → List α) {i : Instr} (is : List Instr)
    {s t : State} (h : exec i s = .next t) :
    collect f (i :: is) s = f i s ++ collect f is t := by
  rw [collect, h]

theorem runInstrs_append {is js : List Instr} {s u t : State} (hs : runInstrs is s = .next u)
    (hu : runInstrs js u = .next t) : runInstrs (is ++ js) s = .next t := by
  induction is generalizing s with
  | nil =>
    obtain rfl := Host.Outcome.next.inj hs
    exact hu
  | cons i rest ih =>
    obtain ⟨v, hi, hrest⟩ := runInstrs_cons.mp hs
    exact runInstrs_cons.mpr ⟨v, hi, ih hrest⟩

theorem collect_append {α : Type} (f : Instr → State → List α) {is : List Instr}
    (js : List Instr) {s u : State} (h : runInstrs is s = .next u) :
    collect f (is ++ js) s = collect f is s ++ collect f js u := by
  induction is generalizing s with
  | nil =>
    obtain rfl := Host.Outcome.next.inj h
    rfl
  | cons i rest ih =>
    obtain ⟨v, hi, hrest⟩ := runInstrs_cons.mp h
    rw [List.cons_append, collect_cons f _ hi, collect_cons f _ hi, ih hrest, List.append_assoc]

/-! ## The decoder as a machine of its own (R61, R173) -/

/-- The two items of the decoder. -/
def Block.decoder (b : Block) : BitVec 32 × PhasePair := (b.yaw, b.prevAb)

/-- What one event does to `yaw` and `prev_ab`: RESET, QEDGE, or a row, which is the QEDGE of its
new pair where `prev_ab` selects it (log 7). -/
def decoderStep (d : BitVec 32 × PhasePair) : DecoderEvent → BitVec 32 × PhasePair
  | .reset ab0 => (0, ab0)
  | .pair ab => (wrapS 32 (d.1.toInt + qdelta (keyOf d.2 ab)), ab)
  | .row prev ab =>
    if d.2 = prev then (wrapS 32 (d.1.toInt + qdelta (keyOf prev ab)), ab) else d

theorem resetBlock_decoder (ab : PhasePair) (b : Block) :
    (resetBlock ab b).decoder = decoderStep b.decoder (.reset ab) := rfl

theorem qedge_decoder (ab : PhasePair) (b : Block) :
    (qedge ab b).decoder = decoderStep b.decoder (.pair ab) := rfl

theorem applyRow_decoder (prev ab : PhasePair) (b : Block) :
    (applyRow prev ab (qdelta (keyOf prev ab)) b).decoder =
      decoderStep b.decoder (.row prev ab) := by
  by_cases h : b.prevAb = prev
  · rw [applyRow_selected h]
    exact (if_pos h).symm
  · rw [applyRow_unselected h]
    exact (if_neg h).symm

/-- The second slot is the decoder's event of the clock. -/
theorem slotTwo_decoder {i : Instr} (hr : isReset i = false) (b : Block) :
    (slotTwo i b).decoder = (decoderEvents i).foldl decoderStep b.decoder := by
  cases i with
  | reset => cases hr
  | qedge ab | tickQedge x ab | drainQedge ab | tickDrainQedge x ab => exact qedge_decoder ab b
  | nop | tick | drain | tickDrain | push | pop | yawrd | scale => rfl
  | _ => exact applyRow_decoder _ _ b

/-- The first slot leaves the decoder alone. -/
theorem SlotOne.decoder_eq {i : Instr} {p : Params} {clock : Nat} {b c : Block}
    {o : Option OutRecord} (h : SlotOne i p clock b c o) : c.decoder = b.decoder := by
  cases h <;> rfl

theorem exec_decoder {i : Instr} {s t : State} (h : exec i s = .next t) :
    t.block.decoder = (decoderEvents i).foldl decoderStep s.block.decoder := by
  obtain ⟨ab, rfl, rfl⟩ | ⟨hr, b, o, hb, rfl⟩ := exec_cases h
  · exact resetBlock_decoder ab s.block
  · rw [after_block, slotTwo_decoder hr, hb.decoder_eq]

/-- Over a run the decoder sees its events and nothing else. -/
theorem runInstrs_decoder {is : List Instr} {s t : State} (h : runInstrs is s = .next t) :
    t.block.decoder = (is.flatMap decoderEvents).foldl decoderStep s.block.decoder := by
  induction is generalizing s with
  | nil =>
    obtain rfl := Host.Outcome.next.inj h
    rfl
  | cons i rest ih =>
    obtain ⟨u, hi, hrest⟩ := runInstrs_cons.mp h
    rw [List.flatMap_cons, List.foldl_append, ← exec_decoder hi]
    exact ih hrest

/-- Settles O44: the same events from the same `yaw` and `prev_ab` end in the same two. -/
theorem decoderDependsOnItsPairsOnly : Obligations.DecoderDependsOnItsPairsOnly := by
  intro is js s u s' u' hevents hyaw hpair hs hu
  have hstart : s.block.decoder = u.block.decoder := Prod.ext hyaw hpair
  have hend : s'.block.decoder = u'.block.decoder := by
    rw [runInstrs_decoder hs, runInstrs_decoder hu, hevents, hstart]
  exact Prod.mk.inj hend

/-! ## The samples delivered (R59, R106) -/

@[simp] theorem slotTwo_unread (i : Instr) (n : Nat) (b : Block) :
    (slotTwo i b).unread n = b.unread n := by
  simp [Block.unread]

@[simp] theorem counted_unread (n : Nat) (b : Block) : b.counted.unread n = b.unread n := rfl

@[simp] theorem accumulated_unread (n : Nat) (x : Sample) (b : Block) :
    (b.accumulated x).unread n = b.unread n := rfl

@[simp] theorem restarted_unread (n : Nat) (b : Block) : b.restarted.unread n = b.unread n := rfl

theorem pushedBy_of_not_stores {i : Instr} (s : State) (h : stores i = false) :
    pushedBy i s = [] := by
  cases i with
  | tick | tickQedge | tickDrain | tickDrainQedge | push => cases h
  | _ => rfl

theorem overflowBy_of_not_stores {i : Instr} (s : State) (h : stores i = false) :
    overflowBy i s = [] := by
  rw [overflowBy, pushedBy_of_not_stores s h, List.flatMap_nil]

theorem overflowBy_of_pushedBy {i : Instr} {s : State} {x : Sample} (h : pushedBy i s = [x]) :
    overflowBy i s = if s.block.count = s.params.n then [()] else [] := by
  simp [overflowBy, h, Block.full]

theorem poppedBy_of_not_pops {i : Instr} (s : State) (h : pops i = false) :
    poppedBy i s = [] := by
  cases i with
  | drain | drainQedge | pop => cases h
  | _ => rfl

theorem poppedBy_of_empty {i : Instr} {s : State} (h : s.block.count = 0) :
    poppedBy i s = [] := by
  cases i with
  | drain | drainQedge | pop => simp [poppedBy, popResult, pop_empty h]
  | _ => rfl

theorem poppedBy_of_pops {i : Instr} {s : State} (h : pops i = true)
    (hc : s.block.count ≠ 0) (hr : s.block.rd < s.params.n) :
    poppedBy i s = [Memory.read s.block.mem s.clock s.block.rd] := by
  cases i with
  | drain | drainQedge | pop => simp [poppedBy, popResult, pop_some hc hr]
  | _ => cases h

/-- What one clock can do to the queue `q` of unread samples: the samples it pushes and pops, the
drops, and the queue it leaves. -/
inductive QueueStep (q : List (Option Sample)) :
    List Sample → List Sample → List Unit → List (Option Sample) → Prop
  /-- No access, or a poll of an empty buffer. -/
  | idle : QueueStep q [] [] [] q
  /-- A PUSH that finds room. -/
  | append (x : Sample) : QueueStep q [x] [] [] (q ++ [some x])
  /-- A PUSH that finds the buffer full: the oldest sample goes (R59 d). -/
  | dropAppend (x y : Sample) (rest : List (Option Sample)) (hq : q = some y :: rest) :
    QueueStep q [x] [] [()] (rest ++ [some x])
  /-- A POP of a buffer that holds a sample. -/
  | take (y : Sample) (rest : List (Option Sample)) (hq : q = some y :: rest) :
    QueueStep q [] [y] [] rest

/-- The head of the queue is the sample that a read at `rd` gives. -/
theorem unread_eq_some_cons {n : Nat} {b : Block} (hb : b.Good n) (hc : b.count ≠ 0)
    (clock : Nat) :
    b.unread n = some (Memory.read b.mem clock b.rd) :: (b.popped n).unread n := by
  have hcons := unread_eq_cons_popped hc hb.buffer.rd_lt
  have hhead : (Memory.read? b.mem b.rd).isSome = true :=
    (unreadWritten_iff n b).mp hb.written _ (hcons ▸ List.mem_cons_self)
  obtain ⟨y, hy⟩ := Option.isSome_iff_exists.mp hhead
  rw [hcons, Memory.read, hy, Option.getD_some]

/-- A storing form appends its sample, after dropping the oldest when the buffer is full. -/
theorem queueStep_of_stores {i : Instr} {s t : State} (hs : s.Inv) (hi : stores i = true)
    (h : exec i s = .next t) :
    QueueStep (s.block.unread s.params.n) (pushedBy i s) (poppedBy i s) (overflowBy i s)
      (t.block.unread s.params.n) := by
  obtain ⟨-, hgood, -⟩ := s.inv_iff.mp hs
  obtain ⟨x, b, hx, ht, hb⟩ := exec_of_stores hi h
  have hqueue : t.block.unread s.params.n = queuePush s.params.n x (s.block.unread s.params.n) := by
    rw [ht, slotTwo_unread, ← unread_pushed x hs.buffer]
    obtain rfl | rfl := hb <;> rfl
  rw [hqueue, overflowBy_of_pushedBy hx, hx, poppedBy_of_not_pops s (not_pops_of_stores hi),
    queuePush, unread_length]
  by_cases hfull : s.block.count = s.params.n
  · have hc : s.block.count ≠ 0 := by
      have := hs.buffer.wr_lt
      omega
    rw [if_pos hfull, if_pos hfull, unread_eq_some_cons hgood hc s.clock, List.tail_cons]
    exact .dropAppend _ _ _ rfl
  · rw [if_neg hfull, if_neg hfull]
    exact .append x

/-- A clock without a PUSH takes the oldest sample or leaves the queue. -/
theorem queueStep_of_not_stores {i : Instr} {s t : State} (hs : s.Inv) (hr : isReset i = false)
    (hi : stores i = false) (h : exec i s = .next t) :
    QueueStep (s.block.unread s.params.n) (pushedBy i s) (poppedBy i s) (overflowBy i s)
      (t.block.unread s.params.n) := by
  obtain ⟨-, hgood, -⟩ := s.inv_iff.mp hs
  have taken (hp : pops i = true) (hc : s.block.count ≠ 0) :
      QueueStep (s.block.unread s.params.n) [] (poppedBy i s) []
        ((s.block.popped s.params.n).unread s.params.n) := by
    rw [poppedBy_of_pops hp hc hs.buffer.rd_lt]
    exact .take _ _ (unread_eq_some_cons hgood hc s.clock)
  obtain ⟨ab, rfl, -⟩ | ⟨-, b, o, hb, rfl⟩ := exec_cases h
  · cases hr
  rw [pushedBy_of_not_stores s hi, overflowBy_of_not_stores s hi, after_block, slotTwo_unread]
  cases hb with
  | idle _ hpops =>
    have hnone : poppedBy i s = [] := by
      cases hp : pops i with
      | true => exact poppedBy_of_empty (hpops hp)
      | false => exact poppedBy_of_not_pops s hp
    rw [hnone]
    exact .idle
  | push x hstores => simp [hi] at hstores
  | tick x hticks => simp [not_ticks_of_not_stores hi] at hticks
  | pop hpops _ hc => exact taken hpops hc
  | accumulate hdrains hc | emit hdrains hc => exact taken (pops_of_drains hdrains) hc

theorem exec_queueStep {i : Instr} {s t : State} (hs : s.Inv) (hr : isReset i = false)
    (h : exec i s = .next t) :
    QueueStep (s.block.unread s.params.n) (pushedBy i s) (poppedBy i s) (overflowBy i s)
      (t.block.unread s.params.n) := by
  cases hi : stores i with
  | true => exact queueStep_of_stores hs hi h
  | false => exact queueStep_of_not_stores hs hr hi h

/-- The history of the buffer since RESET: `gone` are the samples that left it, popped or dropped,
in their order. -/
structure BufferHistory (gone pushed popped : List Sample) (drops : List Unit)
    (q : List (Option Sample)) : Prop where
  /-- What was pushed has left or is unread, in the order of the pushes. -/
  order : pushed.map some = gone.map some ++ q
  /-- The popped samples are among those that left, in the same order. -/
  delivered : popped.Sublist gone
  /-- What left and was not popped was dropped. -/
  length : gone.length = popped.length + drops.length

/-- One clock more: a sample that leaves the queue is the next to have left. -/
theorem BufferHistory.step {gone pushed popped xs ys : List Sample} {drops us : List Unit}
    {q q' : List (Option Sample)} (h : BufferHistory gone pushed popped drops q)
    (hq : QueueStep q xs ys us q') :
    ∃ gone', BufferHistory gone' (pushed ++ xs) (popped ++ ys) (drops ++ us) q' := by
  obtain ⟨horder, hdelivered, hlength⟩ := h
  cases hq with
  | idle => exact ⟨gone, by simpa using horder, by simpa using hdelivered, by simpa using hlength⟩
  | append x =>
    exact ⟨gone, by simp [horder], by simpa using hdelivered, by simpa using hlength⟩
  | dropAppend x y rest hq =>
    exact ⟨gone ++ [y], by simp [horder, hq],
      by simpa using hdelivered.trans (List.sublist_append_left gone [y]),
      by simp [hlength, Nat.add_assoc]⟩
  | take y rest hq =>
    exact ⟨gone ++ [y], by simp [horder, hq], hdelivered.append (List.Sublist.refl [y]),
      by simp [hlength, Nat.add_right_comm]⟩

/-- What left stands at the front of what was pushed, in order. -/
theorem BufferHistory.gone_isPrefix_pushed {gone pushed popped : List Sample} {drops : List Unit}
    {q : List (Option Sample)} (h : BufferHistory gone pushed popped drops q) :
    gone <+: pushed := by
  refine (List.prefix_map_iff_of_injective (Option.some_injective Sample)).mp ?_
  exact h.order ▸ List.prefix_append _ _

/-- The buffer's history over a run from reset, in which the invariant holds and the parameters
stay. -/
theorem bufferHistory_of_run {p : Params} (hp : p.legal = true) (ab0 : PhasePair)
    {is : List Instr} {t : State} (hr : ∀ i ∈ is, isReset i = false)
    (h : runInstrs is (State.resetWith p ab0) = .next t) :
    t.Inv ∧ t.params = p ∧ ∃ gone, BufferHistory gone
      (collect pushedBy is (State.resetWith p ab0)) (collect poppedBy is (State.resetWith p ab0))
      (collect overflowBy is (State.resetWith p ab0)) (t.block.unread p.n) := by
  refine runInstrs_induction (motive := fun is t => t.Inv ∧ t.params = p ∧
    ∃ gone, BufferHistory gone
      (collect pushedBy is (State.resetWith p ab0)) (collect poppedBy is (State.resetWith p ab0))
      (collect overflowBy is (State.resetWith p ab0)) (t.block.unread p.n))
    ⟨resetWith_inv hp ab0, rfl, [], rfl, List.Sublist.refl [], rfl⟩ ?_ hr h
  rintro is i s t hi hrun ⟨hinv, rfl, gone, hist⟩ hexec
  rw [collect_snoc pushedBy i hrun, collect_snoc poppedBy i hrun, collect_snoc overflowBy i hrun]
  exact ⟨exec_keeps_inv hinv hexec, (exec_environment hexec).1,
    hist.step (exec_queueStep hinv hi hexec)⟩

/-- Settles O46: the popped samples are in order among those that left the buffer, which are the
first of those pushed; without drops they are all of those that left. -/
theorem popsFollowThePushes : Obligations.PopsFollowThePushes := by
  intro p ab0 is t hp hr h
  obtain ⟨-, -, gone, hist⟩ := bufferHistory_of_run hp ab0 hr h
  refine ⟨hist.delivered.trans hist.gone_isPrefix_pushed.sublist, fun hdrops => ?_, ?_⟩
  · have hall := hist.delivered.eq_of_length (by rw [hist.length, hdrops]; rfl)
    exact hall ▸ hist.gone_isPrefix_pushed
  · have hcount := congrArg List.length hist.order
    rw [List.length_append, List.length_map, List.length_map, unread_length, hist.length]
      at hcount
    omega

/-! ## Runs as interleavings of single operations (R193, R194) -/

/-- Two states that no instruction tells apart: the same parameters, nine items and clock count. -/
structure State.Alike (s u : State) : Prop where
  params : s.params = u.params
  block : s.block = u.block
  clock : s.clock = u.clock

theorem effect_congr {s u : State} (h : s.Alike u) (i : Instr) : effect i s = effect i u := by
  simp only [effect, h.params, h.block, h.clock]

/-- The operations read off a row of R193 have the row's effect: one operation, or one and then a
QEDGE. -/
theorem serial_cases (i : Instr) :
    (∃ j, serial i = [j] ∧ ∀ u, effect i u = effect j u) ∨
      ∃ j ab, serial i = [j, .qedge ab] ∧ ∀ u, effect i u = withQedge ab (effect j u) := by
  cases i with
  | tickQedge x ab | tickDrainQedge x ab => exact .inr ⟨.tick x, ab, rfl, fun _ => rfl⟩
  | drainQedge ab => exact .inr ⟨.drain, ab, rfl, fun _ => rfl⟩
  | tickDrain x => exact .inl ⟨.tick x, rfl, fun _ => rfl⟩
  | _ => exact .inl ⟨_, rfl, fun _ => rfl⟩

/-- One clock of one operation, from a state alike: it leaves a state alike and emits the same. -/
theorem exec_alike {i j : Instr} {s t u : State} (hsu : s.Alike u)
    (hij : effect i u = effect j u) (h : exec i s = .next t) :
    ∃ v, exec j u = .next v ∧ t.Alike v ∧ recordBy j u = recordBy i s := by
  have hrec := recordBy_of_exec h
  obtain ⟨hl, b, o, he, rfl⟩ := exec_eq_next.mp h
  rw [effect_congr hsu i, hij] at he
  have hj := exec_of_effect (hsu.params ▸ hl) he
  exact ⟨_, hj, ⟨hsu.params, rfl, hsu.clock⟩, (recordBy_of_exec hj).trans hrec.symm⟩

/-- One clock of two operations, from a state alike: the QEDGE in a clock of its own sees what `j`
left and emits nothing. -/
theorem exec_withQedge_alike {i j : Instr} {ab : PhasePair} {s t u : State} (hsu : s.Alike u)
    (hij : effect i u = withQedge ab (effect j u)) (h : exec i s = .next t) :
    ∃ m v, exec j u = .next m ∧ exec (.qedge ab) m = .next v ∧ t.Alike v ∧
      recordBy j u = recordBy i s ∧ recordBy (.qedge ab) m = [] := by
  have hrec := recordBy_of_exec h
  obtain ⟨hl, b, o, he, rfl⟩ := exec_eq_next.mp h
  rw [effect_congr hsu i, hij] at he
  rcases hj : effect j u with f | ⟨c, q⟩
  · simp [hj] at he
  · obtain ⟨rfl, rfl⟩ := by simpa [hj] using he
    have hl' : u.params.legal = true := hsu.params ▸ hl
    have first := exec_of_effect hl' hj
    have second : exec (.qedge ab) (u.after c q (answer j u)) = .next _ := exec_of_effect hl' rfl
    exact ⟨_, _, first, second, ⟨hsu.params, rfl, hsu.clock⟩,
      (recordBy_of_exec first).trans hrec.symm, recordBy_of_exec second⟩

/-- A clock and the clocks of its single operations lead from states alike to states alike and emit
the same. -/
theorem serial_alike {i : Instr} {s t u : State} (hsu : s.Alike u) (h : exec i s = .next t) :
    ∃ v, runInstrs (serial i) u = .next v ∧ t.Alike v ∧
      collect recordBy (serial i) u = recordBy i s := by
  obtain ⟨j, hserial, hij⟩ | ⟨j, ab, hserial, hij⟩ := serial_cases i
  · obtain ⟨v, hj, halike, hrec⟩ := exec_alike hsu (hij u) h
    refine ⟨v, ?_, halike, ?_⟩
    · rw [hserial]
      exact runInstrs_cons.mpr ⟨v, hj, rfl⟩
    · rw [hserial, collect_cons _ _ hj, collect, List.append_nil, hrec]
  · obtain ⟨m, v, hj, hq, halike, hrec, hnone⟩ := exec_withQedge_alike hsu (hij u) h
    refine ⟨v, ?_, halike, ?_⟩
    · rw [hserial]
      exact runInstrs_cons.mpr ⟨m, hj, runInstrs_cons.mpr ⟨v, hq, rfl⟩⟩
    · rw [hserial, collect_cons _ _ hj, collect_cons _ _ hq, collect, hrec, hnone,
        List.append_nil, List.append_nil]

/-- The same along a run, instruction by instruction. -/
theorem runInstrs_serial_alike {is : List Instr} {s t u : State} (hsu : s.Alike u)
    (h : runInstrs is s = .next t) :
    ∃ v, runInstrs (is.flatMap serial) u = .next v ∧ t.Alike v ∧
      collect recordBy (is.flatMap serial) u = collect recordBy is s := by
  induction is generalizing s u with
  | nil =>
    obtain rfl := Host.Outcome.next.inj h
    exact ⟨u, rfl, hsu, rfl⟩
  | cons i rest ih =>
    obtain ⟨s', hi, hrest⟩ := runInstrs_cons.mp h
    obtain ⟨u', hserial, hsu', hfirst⟩ := serial_alike hsu hi
    obtain ⟨v, hv, htv, hlater⟩ := ih hsu' hrest
    refine ⟨v, runInstrs_append hserial hv, htv, ?_⟩
    rw [List.flatMap_cons, collect_append _ _ hserial, collect_cons _ _ hi, hfirst, hlater]

/-- Settles O56: a state is alike to itself, and the simulation keeps the nine items equal. -/
theorem everyRunIsAnInterleaving : Obligations.EveryRunIsAnInterleaving := by
  intro is s t h
  obtain ⟨u, hu, halike, hrec⟩ := runInstrs_serial_alike ⟨rfl, rfl, rfl⟩ h
  exact ⟨u, hu, halike.block.symm, hrec⟩

end Sys2Proof.Machine

/-! # PROOFS. The encodings (spec/30_encoding.md): command words and their formats, reserved words
and mask rows, keys and rows of the transition table, a clock of the ports as CYCLE and as the joined
sub-blocks, and the assembler's lines. -/

namespace Sys2Proof

/-! ## A command word is its fields, joined (R73) -/

/-- Two adjacent fields, joined. -/
theorem extract_join {n : Nat} (w : BitVec n) (start lo hi : Nat) :
    w.extractLsb' (start + lo) hi ++ w.extractLsb' start lo = w.extractLsb' start (hi + lo) :=
  BitVec.extractLsb'_append_extractLsb'_eq_extractLsb' rfl

/-- One bit as a field of width 1. -/
theorem ofBool_getLsbD {n : Nat} (w : BitVec n) (i : Nat) :
    BitVec.ofBool (w.getLsbD i) = w.extractLsb' i 1 := by
  ext j hj
  obtain rfl : j = 0 := by omega
  simp

theorem join_class_rest (w : CommandWord) : fieldClass w ++ w.extractLsb' 0 21 = w :=
  (extract_join w 0 21 3).trans BitVec.extractLsb'_eq_self

theorem join_class_sample (w : CommandWord) :
    fieldClass w ++ w.extractLsb' 16 5 ++ fieldS w = w :=
  calc fieldClass w ++ w.extractLsb' 16 5 ++ fieldS w
    _ = w.extractLsb' 16 8 ++ fieldS w := congrArg (· ++ fieldS w) (extract_join w 16 5 3)
    _ = w.extractLsb' 0 24 := extract_join w 0 16 8
    _ = w := BitVec.extractLsb'_eq_self

/-- The six leading bits (the class and the three below it), the pair and the sample. -/
theorem join_leading_pair_sample (w : CommandWord) :
    w.extractLsb' 18 6 ++ fieldAb w ++ fieldS w = w :=
  calc w.extractLsb' 18 6 ++ fieldAb w ++ fieldS w
    _ = w.extractLsb' 16 8 ++ fieldS w := congrArg (· ++ fieldS w) (extract_join w 16 2 6)
    _ = w.extractLsb' 0 24 := extract_join w 0 16 8
    _ = w := BitVec.extractLsb'_eq_self

theorem join_class_slots (w : CommandWord) :
    fieldClass w ++ BitVec.ofBool (fieldD w) ++ BitVec.ofBool (fieldT w) ++
      BitVec.ofBool (fieldE w) = w.extractLsb' 18 6 := by
  simp only [fieldD, fieldT, fieldE, ofBool_getLsbD]
  calc fieldClass w ++ w.extractLsb' 20 1 ++ w.extractLsb' 19 1 ++ w.extractLsb' 18 1
    _ = w.extractLsb' 20 4 ++ w.extractLsb' 19 1 ++ w.extractLsb' 18 1 :=
        congrArg (· ++ _ ++ _) (extract_join w 20 1 3)
    _ = w.extractLsb' 19 5 ++ w.extractLsb' 18 1 := congrArg (· ++ _) (extract_join w 19 1 4)
    _ = w.extractLsb' 18 6 := extract_join w 18 1 5

/-- A CYCLE word is made from its fields. -/
theorem encodeCycle_fields {w : CommandWord} (h : fieldClass w = 0b000#3) :
    encodeCycle (fieldD w) (fieldT w) (fieldE w) (fieldAb w) (fieldS w) = w := by
  rw [encodeCycle, ← h, join_class_slots]
  exact join_leading_pair_sample w

/-- A RESET word with zeros where its format shows them is made from its levels. -/
theorem resetWord_fields {w : CommandWord} (h : fieldClass w = 0b001#3)
    (hz : w.extractLsb' 18 3 = 0) (hs : fieldS w = 0) :
    0b001#3 ++ 0b000#3 ++ fieldAb w ++ 0#16 = w :=
  calc 0b001#3 ++ 0b000#3 ++ fieldAb w ++ 0#16
    _ = fieldClass w ++ w.extractLsb' 18 3 ++ fieldAb w ++ fieldS w := by rw [h, hz, hs]; rfl
    _ = w.extractLsb' 18 6 ++ fieldAb w ++ fieldS w :=
        congrArg (· ++ fieldAb w ++ fieldS w) (extract_join w 18 3 3)
    _ = w := join_leading_pair_sample w

/-- A word with one sample field and zeros between the class and it. -/
theorem sampleWord_fields {w : CommandWord} {c : BitVec 3} (h : fieldClass w = c)
    (hz : w.extractLsb' 16 5 = 0) : c ++ 0b00000#5 ++ fieldS w = w := by
  have key := join_class_sample w
  rwa [h, hz] at key

/-- A word with zeros in every bit below the class. -/
theorem bareWord_fields {w : CommandWord} {c : BitVec 3} (h : fieldClass w = c)
    (hz : w.extractLsb' 0 21 = 0) : c ++ 0#21 = w := by
  have key := join_class_rest w
  rwa [h, hz] at key

/-! ## Which instruction a command word stands for (R74, R75) -/

/-- The unreserved words of the formats of R73, each with its instruction. -/
inductive CommandOf : CommandWord → Instr → Prop
  | cycle (d t e : Bool) (ab : PhasePair) (x : Sample) :
    CommandOf (encodeCycle d t e ab x) (cycleForm d t e x ab)
  | reset (ab : PhasePair) : CommandOf (0b001#3 ++ 0b000#3 ++ ab ++ 0#16) (.reset ab)
  | push (x : Sample) : CommandOf (0b010#3 ++ 0b00000#5 ++ x) (.push x)
  | pop : CommandOf (0b011#3 ++ 0#21) .pop
  | yawrd : CommandOf (0b100#3 ++ 0#21) .yawrd
  | scale (v : Sample) : CommandOf (0b101#3 ++ 0b00000#5 ++ v) (.scale v)

/-! ### The decoder and R80, class by class -/

/-- Every CYCLE word decodes: its format shows no bit as 0. -/
theorem decodeCommand_cycle {w : CommandWord} (h : fieldClass w = 0b000#3) :
    decodeCommand w = .ok (cycleForm (fieldD w) (fieldT w) (fieldE w) (fieldS w) (fieldAb w)) := by
  simp [decodeCommand, h]

theorem decodeCommand_reset {w : CommandWord} (h : fieldClass w = 0b001#3) :
    decodeCommand w = if w.extractLsb' 18 3 = 0 ∧ fieldS w = 0 then .ok (.reset (fieldAb w))
      else .error (.mustBeZero 0b001) := by
  simp [decodeCommand, h]

theorem decodeCommand_push {w : CommandWord} (h : fieldClass w = 0b010#3) :
    decodeCommand w = if w.extractLsb' 16 5 = 0 then .ok (.push (fieldS w))
      else .error (.mustBeZero 0b010) := by
  simp [decodeCommand, h]

theorem decodeCommand_pop {w : CommandWord} (h : fieldClass w = 0b011#3) :
    decodeCommand w = if w.extractLsb' 0 21 = 0 then .ok .pop
      else .error (.mustBeZero 0b011) := by
  simp [decodeCommand, h]

theorem decodeCommand_yawrd {w : CommandWord} (h : fieldClass w = 0b100#3) :
    decodeCommand w = if w.extractLsb' 0 21 = 0 then .ok .yawrd
      else .error (.mustBeZero 0b100) := by
  simp [decodeCommand, h]

theorem decodeCommand_scale {w : CommandWord} (h : fieldClass w = 0b101#3) :
    decodeCommand w = if w.extractLsb' 16 5 = 0 then .ok (.scale (fieldS w))
      else .error (.mustBeZero 0b101) := by
  simp [decodeCommand, h]

theorem decodeCommand_reservedClass {w : CommandWord}
    (h : fieldClass w = 0b110#3 ∨ fieldClass w = 0b111#3) :
    decodeCommand w = .error (.reservedClass (fieldClass w)) := by
  obtain h | h := h <;> simp [decodeCommand, h]

theorem class_cases (c : BitVec 3) :
    c = 0b000#3 ∨ c = 0b001#3 ∨ c = 0b010#3 ∨ c = 0b011#3 ∨ c = 0b100#3 ∨ c = 0b101#3 ∨
      c = 0b110#3 ∨ c = 0b111#3 := by
  revert c
  decide

theorem CommandOf.of_eq {w v : CommandWord} {i : Instr} (h : CommandOf v i) (hv : v = w) :
    CommandOf w i :=
  hv ▸ h

/-- A word whose format shows some bits as 0 decodes only where they are 0. -/
theorem eq_ok_of_ite {p : Prop} [Decidable p] {i j : Instr} {r : Reject}
    (h : (if p then .ok i else .error r : Except Reject Instr) = .ok j) : p ∧ j = i := by
  split at h
  · exact ⟨‹p›, (Except.ok.inj h).symm⟩
  · cases h

/-- What the decoder accepts is a word of a format, read as that format says. -/
theorem commandOf_of_decodeCommand {w : CommandWord} {i : Instr} (h : decodeCommand w = .ok i) :
    CommandOf w i := by
  obtain hc | hc | hc | hc | hc | hc | hc := class_cases (fieldClass w)
  · obtain rfl := Except.ok.inj ((decodeCommand_cycle hc).symm.trans h)
    exact (CommandOf.cycle _ _ _ _ _).of_eq (encodeCycle_fields hc)
  · obtain ⟨⟨hz, hs⟩, rfl⟩ := eq_ok_of_ite ((decodeCommand_reset hc).symm.trans h)
    exact (CommandOf.reset _).of_eq (resetWord_fields hc hz hs)
  · obtain ⟨hz, rfl⟩ := eq_ok_of_ite ((decodeCommand_push hc).symm.trans h)
    exact (CommandOf.push _).of_eq (sampleWord_fields hc hz)
  · obtain ⟨hz, rfl⟩ := eq_ok_of_ite ((decodeCommand_pop hc).symm.trans h)
    exact CommandOf.pop.of_eq (bareWord_fields hc hz)
  · obtain ⟨hz, rfl⟩ := eq_ok_of_ite ((decodeCommand_yawrd hc).symm.trans h)
    exact CommandOf.yawrd.of_eq (bareWord_fields hc hz)
  · obtain ⟨hz, rfl⟩ := eq_ok_of_ite ((decodeCommand_scale hc).symm.trans h)
    exact (CommandOf.scale _).of_eq (sampleWord_fields hc hz)
  · cases (decodeCommand_reservedClass hc).symm.trans h

theorem decodeCommand_encodeCycle (d t e : Bool) (ab : PhasePair) (x : Sample) :
    decodeCommand (encodeCycle d t e ab x) = .ok (cycleForm d t e x ab) := by
  obtain ⟨hclass, hd, ht, he, hab, hx⟩ := fields_encodeCycle d t e ab x
  rw [decodeCommand_cycle hclass, hd, ht, he, hab, hx]

theorem fields_sampleWord (c : BitVec 3) (x : Sample) :
    fieldClass (c ++ 0b00000#5 ++ x) = c ∧ (c ++ 0b00000#5 ++ x).extractLsb' 16 5 = 0 ∧
      fieldS (c ++ 0b00000#5 ++ x) = x := by
  obtain ⟨hclass, hx, hz⟩ := fields_of_append_sample (c ++ 0b00000#5) x
  refine ⟨hclass.trans ?_, hz.trans ?_, hx⟩
  · exact BitVec.extractLsb'_append_eq_left
  · exact BitVec.extractLsb'_append_eq_right

/-- The decoder accepts every word of a format. -/
theorem CommandOf.decodeCommand_eq {w : CommandWord} {i : Instr} (h : CommandOf w i) :
    decodeCommand w = .ok i := by
  cases h with
  | cycle d t e ab x => exact decodeCommand_encodeCycle d t e ab x
  | reset ab =>
    revert ab
    decide
  | push x =>
    obtain ⟨hclass, hz, hx⟩ := fields_sampleWord 0b010#3 x
    rw [decodeCommand_push hclass, if_pos hz, hx]
  | scale x =>
    obtain ⟨hclass, hz, hx⟩ := fields_sampleWord 0b101#3 x
    rw [decodeCommand_scale hclass, if_pos hz, hx]
  | pop | yawrd => decide

/-! ## Encoding and decoding (R73 to R79) -/

/-- The encoding of a form of CYCLE: zeros in the fields it does not read. -/
theorem encode_cycleForm (d t e : Bool) (x : Sample) (ab : PhasePair) :
    encode (cycleForm d t e x ab) =
      commandBytes (encodeCycle d t e (if e then ab else 0) (if t then x else 0)) := by
  cases d <;> cases t <;> cases e <;> rfl

theorem canonicalCycle_encodeCycle (d t e : Bool) (ab : PhasePair) (x : Sample) :
    canonicalCycle (encodeCycle d t e ab x) =
      encodeCycle d t e (if e then ab else 0) (if t then x else 0) := by
  obtain ⟨-, hd, ht, he, hab, hx⟩ := fields_encodeCycle d t e ab x
  rw [canonicalCycle, hd, ht, he, hab, hx]

theorem cycleForm_zeroed (d t e : Bool) (x : Sample) (ab : PhasePair) :
    cycleForm d t e (if t then x else 0) (if e then ab else 0) = cycleForm d t e x ab := by
  cases d <;> cases t <;> cases e <;> rfl

/-- A form of CYCLE reads the sample with `t = 1` only and the pair with `e = 1` only. -/
theorem cycleForm_congr {d t e : Bool} {x y : Sample} {ab cd : PhasePair}
    (hx : t = true → x = y) (hab : e = true → ab = cd) :
    cycleForm d t e x ab = cycleForm d t e y cd := by
  rw [← cycleForm_zeroed d t e x ab, ← cycleForm_zeroed d t e y cd,
    ite_congr rfl hx fun _ => rfl, ite_congr rfl hab fun _ => rfl]

theorem fieldClass_resetWord (ab : PhasePair) :
    fieldClass (0b001#3 ++ 0b000#3 ++ ab ++ 0#16) = 0b001#3 := by
  revert ab
  decide

/-- The bytes of a command word of a format are read as that format says. -/
theorem CommandOf.decode_eq {w : CommandWord} {i : Instr} (h : CommandOf w i) :
    decode (commandBytes w) = .ok i :=
  (decode_commandBytes w).trans h.decodeCommand_eq

namespace Machine

/-- Settles O1: each encoding is a word of its instruction's format, or the byte of a key. -/
theorem encodeThenDecodeIsIdentity : Obligations.EncodeThenDecodeIsIdentity := by
  intro i _
  cases i with
  | nop => exact (CommandOf.cycle false false false 0 0).decode_eq
  | qedge ab => exact (CommandOf.cycle false false true ab 0).decode_eq
  | tick x => exact (CommandOf.cycle false true false 0 x).decode_eq
  | tickQedge x ab => exact (CommandOf.cycle false true true ab x).decode_eq
  | drain => exact (CommandOf.cycle true false false 0 0).decode_eq
  | drainQedge ab => exact (CommandOf.cycle true false true ab 0).decode_eq
  | tickDrain x => exact (CommandOf.cycle true true false 0 x).decode_eq
  | tickDrainQedge x ab => exact (CommandOf.cycle true true true ab x).decode_eq
  | reset ab => exact (CommandOf.reset ab).decode_eq
  | push x => exact (CommandOf.push x).decode_eq
  | pop => exact CommandOf.pop.decode_eq
  | yawrd => exact CommandOf.yawrd.decode_eq
  | scale v => exact (CommandOf.scale v).decode_eq
  | _ => exact decode_keyBytes _

/-- Settles O2: a form of CYCLE is written with zeros where it does not read; in the other formats
every bit is an operand or fixed. -/
theorem decodedWordsReencode : Obligations.DecodedWordsReencode := by
  intro w i h
  have hkeep {c : BitVec 3} (hc : fieldClass w = c) (hne : c ≠ 0) :
      (if fieldClass w = 0 then canonicalCycle w else w) = w := if_neg (hc ▸ hne)
  cases commandOf_of_decodeCommand h with
  | cycle d t e ab x =>
    rw [if_pos (fields_encodeCycle d t e ab x).1, canonicalCycle_encodeCycle, encode_cycleForm]
  | reset ab => rw [hkeep (fieldClass_resetWord ab) (by decide), encode]
  | push x => rw [hkeep (fields_sampleWord 0b010#3 x).1 (by decide), encode]
  | scale x => rw [hkeep (fields_sampleWord 0b101#3 x).1 (by decide), encode]
  | pop => rfl
  | yawrd => rfl

/-- Settles O5: CYCLE words decode to the form of their fields, which reads no others. -/
theorem ignoredFieldsDoNotMatter : Obligations.IgnoredFieldsDoNotMatter := by
  intro w v hw hv hd ht he hx hab
  rw [decodeCommand_cycle hw, decodeCommand_cycle hv, ← hd, ← ht, ← he, cycleForm_congr hx hab]

end Machine

/-! ## The reserved words (R80) -/

/-- The executable check is R80's list. -/
theorem commandReserved_iff (w : CommandWord) :
    commandReserved w = true ↔
      (fieldClass w = 0b110#3 ∨ fieldClass w = 0b111#3 ∨
        (fieldClass w = 0b001#3 ∧ (w.extractLsb' 18 3 ≠ 0 ∨ w.extractLsb' 0 16 ≠ 0)) ∨
        ((fieldClass w = 0b010#3 ∨ fieldClass w = 0b101#3) ∧ w.extractLsb' 16 5 ≠ 0) ∨
        ((fieldClass w = 0b011#3 ∨ fieldClass w = 0b100#3) ∧ w.extractLsb' 0 21 ≠ 0)) := by
  obtain h | h | h | h | h | h | h | h := class_cases (w.extractLsb' 21 3) <;>
    simp [commandReserved, fieldClass, h]

theorem exists_ite_eq_error {p : Prop} [Decidable p] {i : Instr} {r : Reject} :
    (∃ q, (if p then .ok i else .error r : Except Reject Instr) = .error q) ↔ ¬ p := by
  split <;> simp [*]

/-- The decoder refuses the reserved words and no others. -/
theorem decodeCommand_refuses_iff (w : CommandWord) :
    (∃ r, decodeCommand w = .error r) ↔ commandReserved w = true := by
  rw [commandReserved_iff]
  obtain h | h | h | h | h | h | h := class_cases (fieldClass w)
  · simp [decodeCommand_cycle h, h]
  · rw [decodeCommand_reset h, exists_ite_eq_error]
    simp [h, fieldS, imp_iff_not_or]
  · rw [decodeCommand_push h, exists_ite_eq_error]
    simp [h]
  · rw [decodeCommand_pop h, exists_ite_eq_error]
    simp [h]
  · rw [decodeCommand_yawrd h, exists_ite_eq_error]
    simp [h]
  · rw [decodeCommand_scale h, exists_ite_eq_error]
    simp [h]
  · exact iff_of_true ⟨_, decodeCommand_reservedClass h⟩ (h.imp_right .inl)

/-! ## The match and mask rows (R74, R75) -/

/-- A row given by its six leading bits and by which of the pair and the sample field its format
shows as 0. -/
def formatRow (m : String) (c : BitVec 6) (pairZero sampleZero : Bool) : OpcodeRow :=
  ⟨m, c ++ 0#2 ++ 0#16, BitVec.allOnes 6 ++ (if pairZero then BitVec.allOnes 2 else 0) ++
    (if sampleZero then BitVec.allOnes 16 else 0)⟩

theorem opcodeRows_eq : opcodeRows =
    [ formatRow "NOP" 0b000000 false false, formatRow "QEDGE" 0b000001 false false,
      formatRow "TICK" 0b000010 false false, formatRow "TICK+QEDGE" 0b000011 false false,
      formatRow "DRAIN" 0b000100 false false, formatRow "DRAIN+QEDGE" 0b000101 false false,
      formatRow "TICK+DRAIN" 0b000110 false false,
      formatRow "TICK+DRAIN+QEDGE" 0b000111 false false,
      formatRow "RESET" 0b001000 false true, formatRow "PUSH" 0b010000 true false,
      formatRow "POP" 0b011000 true true, formatRow "YAWRD" 0b100000 true true,
      formatRow "SCALE" 0b101000 true false ] := by
  decide

/-- Joined words are equal exactly when their parts are. -/
theorem append_eq_append_iff {n m : Nat} {a c : BitVec n} {b d : BitVec m} :
    a ++ b = c ++ d ↔ a = c ∧ b = d := by
  refine ⟨fun h => ⟨?_, ?_⟩, fun ⟨ha, hb⟩ => ha ▸ hb ▸ rfl⟩
  · simpa only [BitVec.extractLsb'_append_eq_left] using congrArg (BitVec.extractLsb' m n) h
  · simpa only [BitVec.extractLsb'_append_eq_right] using congrArg (BitVec.extractLsb' 0 m) h

/-- A field under its part of a mask: all ones where the format shows 0, zeros where it does not. -/
theorem and_mask_eq_zero {n : Nat} (zero : Bool) (v : BitVec n) :
    v &&& (if zero then BitVec.allOnes n else 0) = 0 ↔ (zero = true → v = 0) := by
  cases zero <;> simp

/-- A row's word: the leading bits are the row's, and the fields shown as 0 are 0. -/
theorem isRowOf_formatRow (m : String) (c : BitVec 6) (pairZero sampleZero : Bool)
    (c' : BitVec 6) (ab : PhasePair) (x : Sample) :
    (formatRow m c pairZero sampleZero).isRowOf (c' ++ ab ++ x) = true ↔
      c' = c ∧ (pairZero = true → ab = 0) ∧ (sampleZero = true → x = 0) := by
  rw [OpcodeRow.isRowOf, formatRow, beq_iff_eq, BitVec.and_append, BitVec.and_append, 
    append_eq_append_iff, append_eq_append_iff, BitVec.and_allOnes, and_assoc]
  exact and_congr_right' (and_congr (and_mask_eq_zero _ _) (and_mask_eq_zero _ _))

/-- The same of the word of a form of CYCLE, whose leading bits are the class and the slot bits. -/
theorem isRowOf_encodeCycle (m : String) (c : BitVec 6) (pairZero sampleZero d t e : Bool)
    (ab : PhasePair) (x : Sample) :
    (formatRow m c pairZero sampleZero).isRowOf (encodeCycle d t e ab x) = true ↔
      0b000#3 ++ BitVec.ofBool d ++ BitVec.ofBool t ++ BitVec.ofBool e = c ∧
        (pairZero = true → ab = 0) ∧ (sampleZero = true → x = 0) :=
  isRowOf_formatRow m c pairZero sampleZero _ ab x

/-- The same of a word with one sample field and zeros between the class and it. -/
theorem isRowOf_sampleWord (m : String) (c : BitVec 6) (pairZero sampleZero : Bool) (k : BitVec 3)
    (x : Sample) :
    (formatRow m c pairZero sampleZero).isRowOf (k ++ 0b00000#5 ++ x) = true ↔
      k ++ 0b000#3 = c ∧ (sampleZero = true → x = 0) := by
  have hzeros : ∀ k : BitVec 3, k ++ 0b00000#5 = (k ++ 0b000#3) ++ 0b00#2 := by decide
  rw [hzeros]
  exact (isRowOf_formatRow m c pairZero sampleZero _ 0 x).trans (by simp)

/-- The word of an instruction matches one row and no other, and the row has its mnemonic. -/
theorem CommandOf.filter_rows {w : CommandWord} {i : Instr} (h : CommandOf w i) :
    ∃ r, opcodeRows.filter (·.isRowOf w) = [r] ∧ i.mnemonic = r.mnemonic := by
  cases h with
  | cycle d t e ab x =>
    simp only [opcodeRows_eq, List.filter_cons, isRowOf_encodeCycle]
    cases d <;> cases t <;> cases e <;> exact ⟨_, rfl, rfl⟩
  | reset ab =>
    have key : ∀ ab : PhasePair,
        opcodeRows.filter (·.isRowOf (0b001#3 ++ 0b000#3 ++ ab ++ 0#16)) =
          [formatRow "RESET" 0b001000 false true] := by decide
    exact ⟨_, key ab, rfl⟩
  | push x | scale x =>
    simp only [opcodeRows_eq, List.filter_cons, isRowOf_sampleWord]
    exact ⟨_, rfl, rfl⟩
  | pop | yawrd => exact ⟨_, rfl, rfl⟩

/-- A word that matches a row is the word of an instruction. -/
theorem exists_commandOf_of_isRowOf {w : CommandWord} {r : OpcodeRow} (hr : r ∈ opcodeRows)
    (h : r.isRowOf w = true) : ∃ i, CommandOf w i := by
  rw [← join_leading_pair_sample w] at h ⊢
  generalize w.extractLsb' 18 6 = c at h ⊢
  generalize fieldAb w = ab at h ⊢
  generalize fieldS w = x at h ⊢
  simp only [opcodeRows_eq, List.mem_cons, List.not_mem_nil, or_false] at hr
  rcases hr with rfl | rfl | rfl | rfl | rfl | rfl | rfl | rfl | rfl | rfl | rfl | rfl | rfl <;>
    obtain ⟨rfl, hab, hx⟩ := (isRowOf_formatRow _ _ _ _ _ _ _).mp h
  · exact ⟨_, .cycle false false false ab x⟩
  · exact ⟨_, .cycle false false true ab x⟩
  · exact ⟨_, .cycle false true false ab x⟩
  · exact ⟨_, .cycle false true true ab x⟩
  · exact ⟨_, .cycle true false false ab x⟩
  · exact ⟨_, .cycle true false true ab x⟩
  · exact ⟨_, .cycle true true false ab x⟩
  · exact ⟨_, .cycle true true true ab x⟩
  · obtain rfl := hx rfl
    exact ⟨_, .reset ab⟩
  · obtain rfl := hab rfl
    exact ⟨_, .push x⟩
  · obtain ⟨rfl, rfl⟩ := And.intro (hab rfl) (hx rfl)
    exact ⟨_, .pop⟩
  · obtain ⟨rfl, rfl⟩ := And.intro (hab rfl) (hx rfl)
    exact ⟨_, .yawrd⟩
  · obtain rfl := hab rfl
    exact ⟨_, .scale x⟩

namespace Machine

/-! ## One step (R81, R191) -/

theorem fetch_word {s : State} {bytes : List Byte} {rest : List Stimulus}
    (h : s.stimuli = .word bytes :: rest) : fetch s = decode bytes := by
  rw [fetch, h]

theorem fetch_ports {s : State} {p : Inputs} {rest : List Stimulus}
    (h : s.stimuli = .ports p :: rest) : fetch s = .ok p.toInstr := by
  rw [fetch, h]

theorem fetch_idle {s : State} (h : s.stimuli = []) :
    fetch s = .ok (Config.envInputs s.clock).toInstr := by
  rw [fetch, h]

theorem step_of_fetch_error {s : State} {r : Reject} (h : fetch s = .error r) :
    step s = .refused (.reservedWord r) := by
  rw [step, h]

/-- The step takes what is left of the queue, and counts the clock. -/
theorem step_of_fetch {s : State} {i : Instr} {rest : List Stimulus} (h : fetch s = .ok i)
    (hs : s.stimuli.tail = rest) :
    step s = exec i { s with stimuli := rest, clock := s.clock + 1 } := by
  rw [step, h, ← hs]
  rfl

/-- Settles O8, one clause for each form of the stimulus. -/
theorem stepRunsTheStimulus : Obligations.StepRunsTheStimulus := by
  intro s rest
  refine ⟨fun bytes i hs hi => ?word, fun p hs => ?ports, fun hs => ?idle⟩
  case word => exact step_of_fetch ((fetch_word hs).trans hi) (by rw [hs, List.tail_cons])
  case ports => exact step_of_fetch (fetch_ports hs) (by rw [hs, List.tail_cons])
  case idle =>
    exact step_of_fetch (rest := s.stimuli) (fetch_idle hs) (by rw [hs, List.tail_nil])

/-! ## Reserved words and mask rows -/

/-- Settles O3: the check is R80's list, the decoder refuses by it, and a step refuses what the
decoder does. -/
theorem reservedWordsAreRefused : Obligations.ReservedWordsAreRefused := by
  refine ⟨fun w => ⟨commandReserved_iff w, ?_⟩, fun s w rest hs hw => ?_⟩
  · simpa only [decode_commandBytes] using decodeCommand_refuses_iff w
  · obtain ⟨r, hr⟩ := (decodeCommand_refuses_iff w).mpr hw
    refine ⟨r, step_of_fetch_error ?_⟩
    rw [fetch_word hs, decode_commandBytes, hr]

/-- Settles O4: a row's words decode, so a reserved word is in no row; and a word that decodes is in
the one row of its instruction. -/
theorem everyWordMatchesOneRowOrIsReserved : Obligations.EveryWordMatchesOneRowOrIsReserved := by
  intro w
  constructor
  · intro hw
    obtain ⟨q, hq⟩ := (decodeCommand_refuses_iff w).mpr hw
    refine List.filter_eq_nil_iff.mpr fun r hr h => ?_
    obtain ⟨i, hi⟩ := exists_commandOf_of_isRowOf hr h
    cases hq.symm.trans hi.decodeCommand_eq
  · intro hw
    rcases hd : decodeCommand w with q | i
    · cases hw.symm.trans ((decodeCommand_refuses_iff w).mp ⟨q, hd⟩)
    · obtain ⟨r, hfilter, hname⟩ := (commandOf_of_decodeCommand hd).filter_rows
      exact ⟨r, i, hfilter, rfl, hname⟩

/-! ## Keys and rows of the transition table (R77, R170) -/

/-- The key of two pairs is decoded to their row. -/
theorem rowOf?_decodeKey (prev ab : PhasePair) :
    rowOf? (decodeKey (keyOf prev ab)) = some (prev, ab) := by
  revert prev ab
  decide

/-- Settles O6: a key is two fields joined, and the decoder looks it up. -/
theorem keysNameTheirRow : Obligations.KeysNameTheirRow := fun prev ab =>
  ⟨BitVec.extractLsb'_append_eq_left, BitVec.extractLsb'_append_eq_right,
    _, decode_keyBytes _, rowOf?_decodeKey prev ab⟩

/-- A row of the table is one clock that applies the row with QDELTA of its key and returns it. -/
theorem effect_row {i : Instr} {prev ab : PhasePair} (h : rowOf? i = some (prev, ab)) (s : State) :
    effect i s = .ok (applyRow prev ab (qdelta (keyOf prev ab)) s.block, none) ∧
      answer i s = .qdelta (qdelta (keyOf prev ab)) := by
  cases i <;> cases h <;> exact ⟨rfl, rfl⟩

theorem exec_row {i : Instr} {prev ab : PhasePair} {s : State} (h : rowOf? i = some (prev, ab))
    (hl : s.params.legal = true) :
    exec i s = .next (s.after (applyRow prev ab (qdelta (keyOf prev ab)) s.block) none
      (.qdelta (qdelta (keyOf prev ab)))) := by
  obtain ⟨he, ha⟩ := effect_row h s
  rw [exec_of_effect hl he, ha]

/-- Settles O28: a selected row is applied. -/
theorem selectedRowsStepTheDecoder : Obligations.SelectedRowsStepTheDecoder := by
  intro i prev ab s hi hl hsel
  rw [exec_row hi hl, applyRow_selected hsel]
  rfl

/-- Settles O30: an unselected row is not applied. -/
theorem unselectedRowsChangeNothing : Obligations.UnselectedRowsChangeNothing := by
  intro i prev ab s hi hl hsel
  rw [exec_row hi hl, applyRow_unselected hsel]
  rfl

/-- QEDGE is the row that `prev_ab` selects. -/
theorem applyRow_prevAb (ab : PhasePair) (b : Block) :
    applyRow b.prevAb ab (qdelta (keyOf b.prevAb ab)) b = qedge ab b :=
  applyRow_selected rfl

/-- Settles O29: the selected row and QEDGE have one effect, so one completes where the other does,
and only the response differs. -/
theorem qedgeIsTheSelectedRow : Obligations.QedgeIsTheSelectedRow := by
  intro ab s
  refine ⟨_, decode_keyBytes _, fun t => ?_⟩
  obtain ⟨he, ha⟩ := effect_row (rowOf?_decodeKey s.block.prevAb ab) s
  rw [applyRow_prevAb] at he
  constructor
  · intro h
    obtain ⟨hl, b, o, hq, rfl⟩ := exec_eq_next.mp h
    obtain ⟨rfl, rfl⟩ := Prod.mk.inj (Except.ok.inj hq)
    exact ⟨_, exec_of_effect hl he, rfl⟩
  · rintro ⟨u, hu, rfl⟩
    obtain ⟨hl, b, o, hq, rfl⟩ := exec_eq_next.mp hu
    obtain ⟨rfl, rfl⟩ := Prod.mk.inj (Except.ok.inj (he.symm.trans hq))
    exact exec_of_effect hl rfl

/-! ## A clock of the ports is CYCLE (R81, R192) -/

/-- With `rst = 0` the three enables select the form of CYCLE. -/
theorem toInstr_of_not_rst {p : Inputs} (h : p.rst = false) :
    p.toInstr = cycleForm p.drainEn p.tick p.edgeValid p.sampleIn
      (BitVec.ofBool p.a ++ BitVec.ofBool p.b) := by
  simp [Inputs.toInstr, h]

/-- Each of the eight rows of R193 is the pseudocode of R192 with its slot bits. -/
theorem exec_cycleForm (d t e : Bool) (x : Sample) (ab : PhasePair) (s : State) :
    exec (cycleForm d t e x ab) s =
      s.complete (clockCycle s.params s.clock d t e ab x s.block) .none := by
  cases d <;> cases t <;> cases e <;> rfl

/-- Settles O10: the ports select a form of CYCLE, and each form is the pseudocode. -/
theorem portClockIsCycle : Obligations.PortClockIsCycle := by
  intro s p rest hs hp
  rw [step_of_fetch (fetch_ports hs) (congrArg List.tail hs), toInstr_of_not_rst hp,
    exec_cycleForm]
  rfl

/-! ## The joined sub-blocks (R72, R122) -/

theorem clockCycle_edge (p : Params) (clock : Nat) (d t : Bool) (ab : PhasePair) (x : Sample)
    (b : Block) :
    clockCycle p clock d t true ab x b = withQedge ab (clockCycle p clock d t false ab x b) := rfl

/-- The decoder is beside the other sub-blocks: an edge is a QEDGE after what they do. -/
theorem wiredClock_edge {i : Inputs} (h : i.edgeValid = true) (p : Params) (clock : Nat)
    (b : Block) :
    wiredClock p clock i b =
      (qedge (BitVec.ofBool i.a ++ BitVec.ofBool i.b)
        (wiredClock p clock { i with edgeValid := false } b).1,
        (wiredClock p clock { i with edgeValid := false } b).2) := by
  simp only [wiredClock, decoderNext, h]
  rfl

/-- Without an edge the decoder keeps its items, and the other sub-blocks write theirs. -/
theorem wiredClock_no_edge {i : Inputs} (h : i.edgeValid = false) (p : Params) (clock : Nat)
    (b : Block) :
    wiredClock p clock i b =
      ({ b with
        mem := (ringNext p.n (wiresOf p clock i b) b).1
        wr := (ringNext p.n (wiresOf p clock i b) b).2.1
        rd := (ringNext p.n (wiresOf p clock i b) b).2.2.1
        count := (ringNext p.n (wiresOf p clock i b) b).2.2.2
        sampleCount := samplerNext (wiresOf p clock i b) b
        acc := (engineNext (wiresOf p clock i b) b).1
        k := (engineNext (wiresOf p clock i b) b).2 }, scalerOut p (wiresOf p clock i b) b) := by
  simp [wiredClock, decoderNext, h]

@[simp] theorem wiresOf_pushEn (p : Params) (clock : Nat) (i : Inputs) (b : Block) :
    (wiresOf p clock i b).pushEn = i.tick := rfl

@[simp] theorem wiresOf_pushData (p : Params) (clock : Nat) (i : Inputs) (b : Block) :
    (wiresOf p clock i b).pushData = i.sampleIn := rfl

@[simp] theorem wiresOf_popEn (p : Params) (clock : Nat) (i : Inputs) (b : Block) :
    (wiresOf p clock i b).popEn = (i.drainEn && !i.tick) := rfl

@[simp] theorem wiresOf_popValid (p : Params) (clock : Nat) (i : Inputs) (b : Block) :
    (wiresOf p clock i b).popValid = ((i.drainEn && !i.tick) && decide (b.count > 0)) := rfl

@[simp] theorem wiresOf_popData (p : Params) (clock : Nat) (i : Inputs) (b : Block) :
    (wiresOf p clock i b).popData = Memory.read b.mem clock b.rd := rfl

@[simp] theorem wiresOf_avgValid (p : Params) (clock : Nat) (i : Inputs) (b : Block) :
    (wiresOf p clock i b).avgValid =
      ((wiresOf p clock i b).popValid && decide (b.k = p.n - 1)) := rfl

@[simp] theorem wiresOf_avg (p : Params) (clock : Nat) (i : Inputs) (b : Block) :
    (wiresOf p clock i b).avg =
      wrapS 16 (avg p.n (b.acc.toInt + sext (Memory.read b.mem clock b.rd))) := rfl

/-- The producer has the buffer: PUSH, and the firing counted. -/
theorem wiredClock_tick {i : Inputs} (ht : i.tick = true) (he : i.edgeValid = false) (p : Params)
    (clock : Nat) (b : Block) :
    wiredClock p clock i b = ((b.pushed p.n i.sampleIn).counted, none) := by
  simp [wiredClock_no_edge he, ringNext, samplerNext, engineNext, scalerOut, ht, Block.pushed,
    Block.counted]

/-- Nobody has the buffer, or the poll finds it empty. -/
theorem wiredClock_idle {i : Inputs} {b : Block} (ht : i.tick = false) (he : i.edgeValid = false)
    (h : i.drainEn = false ∨ b.count = 0) (p : Params) (clock : Nat) :
    wiredClock p clock i b = (b, none) := by
  have hnone : (wiresOf p clock i b).popValid = false := by
    obtain h | h := h <;> simp [h]
  rw [wiredClock_no_edge he]
  simp only [ringNext, samplerNext, engineNext, scalerOut, wiresOf_pushEn, wiresOf_avgValid, hnone,
    ht, Bool.false_and, Bool.false_eq_true, if_false]

/-- The engine's poll finds a sample. -/
theorem wiredClock_drain {i : Inputs} {b : Block} (ht : i.tick = false) (he : i.edgeValid = false)
    (hd : i.drainEn = true) (hc : b.count ≠ 0) (p : Params) (clock : Nat) :
    wiredClock p clock i b = absorb p (Memory.read b.mem clock b.rd) (b.popped p.n) := by
  rw [wiredClock_no_edge he]
  by_cases hk : b.k = p.n - 1
  · rw [absorb_last (b := b.popped p.n) hk]
    simp [ringNext, samplerNext, engineNext, scalerOut, ht, hd, hk, Nat.pos_of_ne_zero hc,
      Block.popped, outRecord]
  · rw [absorb_more (b := b.popped p.n) hk]
    simp [ringNext, samplerNext, engineNext, scalerOut, ht, hd, hk, Nat.pos_of_ne_zero hc,
      Block.popped]

/-- Without an edge: the arbiter's three cases. -/
theorem clockCycle_eq_wiredClock {i : Inputs} (he : i.edgeValid = false) {p : Params} {b : Block}
    (hwr : b.wr < p.n) (hrd : b.rd < p.n) (clock : Nat) (ab : PhasePair) :
    clockCycle p clock i.drainEn i.tick false ab i.sampleIn b = .ok (wiredClock p clock i b) := by
  cases ht : i.tick with
  | true =>
    rw [wiredClock_tick ht he]
    exact congrArg noRecord (tick_of_lt hwr)
  | false =>
    cases hd : i.drainEn with
    | false =>
      rw [wiredClock_idle ht he (.inl hd)]
      rfl
    | true =>
      by_cases hc : b.count = 0
      · rw [wiredClock_idle ht he (.inr hc)]
        exact drain_empty hc
      · rw [wiredClock_drain ht he hd hc]
        exact drain_some hc hrd

/-- R122: the arbiter gives the buffer to one of the two. -/
theorem not_pushEn_and_popEn (p : Params) (clock : Nat) (i : Inputs) (b : Block) :
    ¬ ((wiresOf p clock i b).pushEn = true ∧ (wiresOf p clock i b).popEn = true) := by
  simp +contextual

/-- Settles O11: without an edge by the arbiter's cases; an edge is a QEDGE after them on both
sides. -/
theorem joinedSubBlocksPerformCycle : Obligations.JoinedSubBlocksPerformCycle := by
  intro p clock i b hwr hrd
  refine ⟨?_, not_pushEn_and_popEn p clock i b⟩
  cases he : i.edgeValid with
  | false => exact clockCycle_eq_wiredClock he hwr hrd clock _
  | true =>
    have key := clockCycle_eq_wiredClock (i := { i with edgeValid := false }) rfl hwr hrd clock
      (BitVec.ofBool i.a ++ BitVec.ofBool i.b)
    rw [clockCycle_edge, key, wiredClock_edge he]
    rfl

/-! ## The assembler and written words (R78, R82, R83) -/

/-- Settles O59, row by row of R83's table. -/
theorem pseudoInstructionsExpand : Obligations.PseudoInstructionsExpand := by
  refine ⟨fun n l => rfl, fun ss => ?ticks, fun ps => ?qseq, fun n => ?drains, fun s => rfl⟩
  case ticks => exact (List.flatMap_pure_eq_map _ ss).symm
  case qseq => exact (List.flatMap_pure_eq_map _ ps).symm
  case drains => exact (List.flatten_replicate_singleton).symm

/-- Settles O60: the fields of an absent term are zero in the line's instruction already. -/
theorem cycleLinesEncodeTheirTerms : Obligations.CycleLinesEncodeTheirTerms := by
  intro t d q
  rw [assembleLine, List.map_singleton, cycleLine, encode_cycleForm]
  cases t <;> cases q <;> rfl

/-- Settles O7: ten closed evaluations of the decoder. -/
theorem writtenWordsDecode : Obligations.WrittenWordsDecode := by
  unfold Obligations.WrittenWordsDecode
  decide

end Machine

end Sys2Proof

/-! # PROOFS. The sample ring buffer (spec/40_sample_ring_buffer.md): what the test-access words PUSH
and POP do to the block, and what they return. -/

namespace Sys2Proof.Machine

/-! ## PUSH (R101) -/

/-- A full buffer holds `n` samples, so R101's "count stays" may name either number. -/
theorem pushed_count_eq (n : Nat) (x : Sample) (b : Block) :
    (b.pushed n x).count = if b.count = n then n else b.count + 1 :=
  ite_congr rfl id fun _ => rfl

theorem exec_push {x : Sample} {s : State} (hl : s.params.legal = true)
    (hwr : s.block.wr < s.params.n) :
    exec (.push x) s = .next (s.after (s.block.pushed s.params.n x) none .none) :=
  exec_of_effect hl (noRecord_eq_ok.mpr ⟨push_eq_ok_pushed.mpr ⟨hwr, rfl⟩, rfl⟩)

/-- Settles O24: PUSH is one clock whose effect is the pushed block, where a full `count` is `N`. -/
theorem pushStoresAndAdvances : Obligations.PushStoresAndAdvances := by
  intro x s hl hwr
  rw [exec_push hl hwr, ← pushed_count_eq s.params.n x s.block]
  rfl

/-! ## POP (R102) -/

/-- What the operation gives, the word POP leaves and returns. -/
theorem exec_pop {s : State} {v : Option Sample} {b : Block} (hl : s.params.legal = true)
    (h : pop s.params.n s.clock s.block = .ok (v, b)) :
    exec .pop s = .next (s.after b none (.popped v)) := by
  have heffect : effect .pop s = .ok (b, none) := congrArg popEffect h
  have hanswer : answer .pop s = .popped v := congrArg popResponse h
  rw [exec_of_effect hl heffect, hanswer]

/-- Settles O25: POP is the operation in one clock, on an empty buffer and on one with a sample. -/
theorem popReturnsTheOldest : Obligations.PopReturnsTheOldest :=
  fun _ hl => ⟨fun hc => exec_pop hl (pop_empty hc), fun hc hrd => exec_pop hl (pop_some hc hrd)⟩

end Sys2Proof.Machine

/-! # PROOFS. The arbiter's producer side (spec/41_periodic_sampler_arbiter.md): what a firing of
the sampler does to the block. -/

namespace Sys2Proof.Machine

/-! ## TICK (R120) -/

/-- TICK is one clock: the pushed block, and the firing counted, overflow or not. -/
theorem exec_tick {x : Sample} {s : State} (hl : s.params.legal = true)
    (hwr : s.block.wr < s.params.n) :
    exec (.tick x) s = .next (s.after (s.block.pushed s.params.n x).counted none .none) :=
  exec_of_effect hl (noRecord_eq_ok.mpr ⟨tick_of_lt hwr, rfl⟩)

/-- Settles O21: TICK leaves the pushed block with one firing more, where a full `count` is `N`. -/
theorem tickPushesAndCounts : Obligations.TickPushesAndCounts := by
  intro x s hl hwr
  rw [exec_tick hl hwr, ← pushed_count_eq s.params.n x s.block]
  rfl

end Sys2Proof.Machine

/-! # PROOFS. The moving-average engine (spec/42_moving_average_engine.md): what a poll does to the
block and the record it emits, and the average of a control cycle. -/

namespace Sys2Proof.Machine

/-! ## DRAIN (R136, R137) -/

/-- DRAIN is its operation in one clock, and returns nothing. -/
theorem exec_drain {s : State} {b : Block} {o : Option OutRecord} (hl : s.params.legal = true)
    (h : drain s.params s.clock s.block = .ok (b, o)) :
    exec .drain s = .next (s.after b o .none) :=
  exec_of_effect hl h

/-- A poll that receives a sample before the N-th: popped, then accumulated. -/
theorem drain_more {p : Params} {clock : Nat} {b : Block} (hc : b.count ≠ 0) (hrd : b.rd < p.n)
    (hk : b.k ≠ p.n - 1) :
    drain p clock b =
      .ok ((b.popped p.n).accumulated (Memory.read b.mem clock b.rd), none) :=
  (drain_some hc hrd).trans (congrArg Except.ok (absorb_more hk))

/-- A poll that receives the N-th sample: popped, the cycle restarted, and the record of the
average emitted, with `yaw` and `sample_count` from before the clock. -/
theorem drain_last {p : Params} {clock : Nat} {b : Block} (hc : b.count ≠ 0) (hrd : b.rd < p.n)
    (hk : b.k = p.n - 1) :
    drain p clock b = .ok ((b.popped p.n).restarted, some (outRecord p
      (wrapS 16 (avg p.n (b.acc.toInt + sext (Memory.read b.mem clock b.rd)))) b)) :=
  (drain_some hc hrd).trans (congrArg Except.ok (absorb_last hk))

/-- Settles O22: DRAIN is its operation in one clock, in each of the three cases of a poll. -/
theorem drainPollsAccumulatesEmits : Obligations.DrainPollsAccumulatesEmits := by
  intro s hl
  refine ⟨fun hc => ?empty, fun hc hrd hk => ?more, fun hc hrd hk a ha => ?last⟩
  case empty => exact exec_drain hl (drain_empty hc)
  case more => exact exec_drain hl (drain_more hc hrd hk)
  case last =>
    subst ha
    exact exec_drain hl (drain_last hc hrd hk)

/-! ## AVG (R135) -/

/-- Settles O52: the 16 signed bits carry the quotient exactly, so it has the bounds of a Sample. -/
theorem averageFitsASample : Obligations.AverageFitsASample := by
  intro n sum hn hlo hhi
  have hfit : sext (wrapS 16 (avg n sum)) = avg n sum := avg_toInt hn hlo hhi
  obtain ⟨hmin, hmax⟩ := sext_bounds (wrapS 16 (avg n sum))
  exact ⟨rfl, hfit ▸ hmin, hfit ▸ hmax, hfit⟩

end Sys2Proof.Machine

/-! # PROOFS. The linear scaler with clamp (spec/43_linear_scaler_with_clamp.md): the laws of PCT and
DUTY (R152 to R154) and the test-access word SCALE (R157). -/

namespace Sys2Proof.Machine

/-! ## The linear map of DUTY before its clamp (R151) -/

/-- `raw` with the block's constants 5 and 95 put in. -/
theorem dutyRaw_eq (p : Params) (v : Sample) : dutyRaw p v =
    5 + quot ((sext v - sext p.inMin) * 90) (sext p.inMax - sext p.inMin) := rfl

/-- The divisor of `raw` is positive. -/
theorem sensorRange_pos {p : Params} (h : p.legal = true) : 0 < sext p.inMax - sext p.inMin := by
  obtain ⟨-, -, hrange, -⟩ := p.legal_iff.mp h
  exact Int.sub_pos.mpr hrange

theorem dutyRaw_mono {p : Params} (h : p.legal = true) {v w : Sample} (hvw : sext v ≤ sext w) :
    dutyRaw p v ≤ dutyRaw p w := by
  have hdividend : (sext v - sext p.inMin) * 90 ≤ (sext w - sext p.inMin) * 90 := by omega
  have hquot := Int.tdiv_le_tdiv (sensorRange_pos h) hdividend
  exact Int.add_le_add_left hquot 5

theorem dutyRaw_inMin (p : Params) : dutyRaw p p.inMin = 5 := by
  simp [dutyRaw_eq, quot]

/-- At `IN_MAX` the dividend is 90 times the divisor. -/
theorem dutyRaw_inMax {p : Params} (h : p.legal = true) : dutyRaw p p.inMax = 95 := by
  rw [dutyRaw_eq, quot, Int.mul_tdiv_cancel_left 90 (sensorRange_pos h).ne']
  rfl

/-! ## The clamp is monotonic, and so is DUTY (R153, R154) -/

theorem clamp_mono {lo hi v w : Int} (hle : lo ≤ hi) (hvw : v ≤ w) :
    clamp v lo hi ≤ clamp w lo hi := by
  obtain ⟨hlo, hhi⟩ := clamp_mem hle w
  rcases lt_or_ge v lo with hv | hv
  · rwa [clamp_of_lt hv]
  rcases lt_or_ge hi w with hw | hw
  · rw [clamp_of_gt hle hw]
    exact (clamp_mem hle v).2
  · rwa [clamp_of_mem hv (hvw.trans hw), clamp_of_mem (hv.trans hvw) hw]

/-- A value of `raw` in [5, 95] is the duty. -/
theorem duty_of_dutyRaw {p : Params} {v : Sample} {d : Int} (h : dutyRaw p v = d) (hlo : 5 ≤ d)
    (hhi : d ≤ 95) : duty p v = d := by
  rw [duty, h]
  exact clamp_of_mem hlo hhi

/-- Settles O54: subtracting, scaling, dividing by a positive number and clamping are monotonic, and
at the end points `raw` is 5 and 95. -/
theorem dutyIsMonotonic : Obligations.DutyIsMonotonic := fun p h =>
  ⟨fun _ _ hvw => clamp_mono (by decide) (dutyRaw_mono h hvw),
    duty_of_dutyRaw (dutyRaw_inMin p) (by decide) (by decide),
    duty_of_dutyRaw (dutyRaw_inMax h) (by decide) (by decide)⟩

/-- Settles O53: a record is the record of some average, whose duty is clamped and fits the port. -/
theorem dutyIsAlwaysClamped : Obligations.DutyIsAlwaysClamped := by
  refine ⟨duty_mem, fun i s t r h hr => ?_⟩
  obtain ⟨a, rfl⟩ := record_of_exec h hr
  have hport := dutyPort_toNat s.params a
  have hduty := duty_mem s.params a
  rw [outRecord_duty]
  omega

/-! ## The intermediate values (R152) -/

theorem abs_sext_le (v : Sample) : |sext v| ≤ 32768 := by
  obtain ⟨hlo, hhi⟩ := sext_bounds v
  exact abs_le.mpr ⟨hlo, by omega⟩

/-- Two samples differ by less than the number of samples. -/
theorem abs_sext_sub_le (v w : Sample) : |sext v - sext w| ≤ 65535 := by
  obtain ⟨hvlo, hvhi⟩ := sext_bounds v
  obtain ⟨hwlo, hwhi⟩ := sext_bounds w
  exact abs_sub_le_of_le_of_le hvlo hvhi hwlo hwhi

theorem abs_sext_sub_mul_le (v w : Sample) : |(sext v - sext w) * 90| ≤ 5898150 :=
  calc |(sext v - sext w) * 90| = |sext v - sext w| * 90 := abs_mul _ 90
    _ ≤ 65535 * 90 := Int.mul_le_mul_of_nonneg_right (abs_sext_sub_le v w) (by decide)

/-- Truncated division makes no number larger. -/
theorem abs_quot_le (a b : Int) : |quot a b| ≤ |a| := by
  rw [Int.abs_eq_natAbs, Int.abs_eq_natAbs]
  exact Int.ofNat_le.mpr (Int.natAbs_tdiv_le_natAbs a b)

theorem abs_dutyRaw_lt (p : Params) (v : Sample) : |dutyRaw p v| < 2 ^ 23 :=
  calc |dutyRaw p v|
      ≤ 5 + |quot ((sext v - sext p.inMin) * 90) (sext p.inMax - sext p.inMin)| := abs_add_le 5 _
    _ ≤ 5 + |(sext v - sext p.inMin) * 90| := Int.add_le_add_left (abs_quot_le _ _) 5
    _ ≤ 5 + 5898150 := Int.add_le_add_left (abs_sext_sub_mul_le v p.inMin) 5
    _ < 2 ^ 23 := by decide

theorem abs_sext_mul_scaleNum_lt {p : Params} (h : p.legal = true) (v : Sample) :
    |sext v * (p.scaleNum : Int)| < 2 ^ 30 := by
  obtain ⟨-, -, -, hnum, -⟩ := p.legal_iff.mp h
  calc |sext v * (p.scaleNum : Int)| = |sext v| * p.scaleNum := by rw [abs_mul, Nat.abs_cast]
    _ ≤ 32768 * 32767 :=
      mul_le_mul (abs_sext_le v) (Int.ofNat_le.mpr hnum) (Int.natCast_nonneg _) (by decide)
    _ < 2 ^ 30 := by decide

/-- Settles O55, one lemma for each intermediate value and one for each port. -/
theorem scalerIntermediatesAreBounded : Obligations.ScalerIntermediatesAreBounded := fun p v h =>
  ⟨abs_sext_sub_le v p.inMin, abs_sext_sub_mul_le v p.inMin, abs_dutyRaw_lt p v,
    abs_sext_mul_scaleNum_lt h v, pctPort_toInt h v, dutyPort_toNat p v⟩

/-! ## SCALE (R157) -/

/-- SCALE is one clock that leaves the block and returns the two ports. -/
theorem exec_scale {s : State} (hl : s.params.legal = true) (v : Sample) :
    exec (.scale v) s =
      .next (s.after s.block none (.scaled (pctPort s.params v) (dutyPort s.params v))) :=
  exec_of_effect hl rfl

/-- Settles O27: what SCALE returns are the ports, which carry PCT and DUTY exactly. -/
theorem scaleReturnsPercentAndDuty : Obligations.ScaleReturnsPercentAndDuty := fun v s hl =>
  ⟨pctPort s.params v, dutyPort s.params v, pctPort_toInt hl v, dutyPort_toNat s.params v,
    exec_scale hl v⟩

end Sys2Proof.Machine

/-! # PROOFS. The quadrature decoder (spec/44_quadrature_decoder_sm.md): QDELTA and its symmetries,
QEDGE and YAWRD, and `yaw` as the net number of steps of a run. -/

namespace Sys2Proof.Machine

/-! ## QDELTA and its symmetries (R170, R177) -/

/-- Settles O38: sixteen keys, and sixteen values of the four bits. -/
theorem qdeltaIsTheTable : Obligations.QdeltaIsTheTable := ⟨by decide, by decide⟩

/-- Settles O41: sixteen keys, each with its exchanged one. -/
theorem exchangedLinesReverseTheCount : Obligations.ExchangedLinesReverseTheCount := by
  unfold Obligations.ExchangedLinesReverseTheCount
  decide

/-- The step back undoes the step (R173 c). -/
theorem qdelta_keyOf_comm (prev ab : PhasePair) :
    qdelta (keyOf ab prev) = -qdelta (keyOf prev ab) := by
  revert prev ab
  decide

theorem qdelta_keyOf_back {prev ab : PhasePair} {d : Int} (h : qdelta (keyOf prev ab) = d) :
    qdelta (keyOf ab prev) = -d := by
  rw [qdelta_keyOf_comm, h]

@[simp] theorem qdelta_keyOf_self (ab : PhasePair) : qdelta (keyOf ab ab) = 0 := by
  revert ab
  decide

/-- From each of its places the cycle goes forward, and the place opposite is a skipped state. -/
theorem qdelta_of_forwardCycles {p0 p1 p2 p3 : PhasePair}
    (h : (p0, p1, p2, p3) ∈ forwardCycles) :
    qdelta (keyOf p0 p1) = 1 ∧ qdelta (keyOf p1 p2) = 1 ∧ qdelta (keyOf p2 p3) = 1 ∧
      qdelta (keyOf p3 p0) = 1 ∧ qdelta (keyOf p0 p2) = 0 := by
  simp only [forwardCycles, List.mem_cons, Prod.mk.injEq, List.not_mem_nil, or_false] at h
  obtain ⟨rfl, rfl, rfl, rfl⟩ | ⟨rfl, rfl, rfl, rfl⟩ | ⟨rfl, rfl, rfl, rfl⟩ |
    ⟨rfl, rfl, rfl, rfl⟩ := h <;> decide

/-! ## QEDGE (R171, R175) -/

/-- The reduction to 32 bits is addition modulo 2^32. -/
theorem wrapS_toInt_add {w : Nat} (y : BitVec w) (d : Int) :
    wrapS w (y.toInt + d) = y + BitVec.ofInt w d := by
  rw [wrapS, BitVec.ofInt_add, BitVec.ofInt_toInt]

theorem qedge_eq (ab : PhasePair) (b : Block) :
    qedge ab b =
      { b with yaw := b.yaw + BitVec.ofInt 32 (qdelta (keyOf b.prevAb ab)), prevAb := ab } := by
  rw [qedge, wrapS_toInt_add]

/-- The pair the decoder already has moves nothing. -/
theorem qedge_prevAb_self (b : Block) : qedge b.prevAb b = b := by
  simp [qedge_eq]

/-- QEDGE is its operation in one clock, and returns nothing. -/
theorem exec_qedge {s : State} (hl : s.params.legal = true) (ab : PhasePair) :
    exec (.qedge ab) s = .next (s.after (qedge ab s.block) none .none) :=
  exec_of_effect hl rfl

/-- Settles O20: QEDGE leaves the block that its operation gives. -/
theorem qedgeMovesYawAndPair : Obligations.QedgeMovesYawAndPair :=
  fun ab _ hl => exec_qedge hl ab

/-- Settles O40: the operation moves nothing for the pair the decoder already has. -/
theorem repeatedPairIsHarmless : Obligations.RepeatedPairIsHarmless := by
  intro s hl
  rw [exec_qedge hl, qedge_prevAb_self]

/-! ## YAWRD (R174) -/

/-- YAWRD is one clock that leaves the block and returns `yaw`. -/
theorem exec_yawrd {s : State} (hl : s.params.legal = true) :
    exec .yawrd s = .next (s.after s.block none (.yaw s.block.yaw)) :=
  exec_of_effect hl rfl

/-- Settles O26: YAWRD as one clock, and the continuous port of every clock (O35). -/
theorem yawrdReturnsYaw : Obligations.YawrdReturnsYaw := fun s =>
  ⟨exec_yawrd, fun i t h => (portsShowTheStartOfTheClock i s t h).1⟩

/-! ## The net number of steps (R173 a, R197 f) -/

/-- A QEDGE adds QDELTA to `yaw` modulo 2^32. -/
theorem decoderStep_pair (d : BitVec 32 × PhasePair) (ab : PhasePair) :
    decoderStep d (.pair ab) = (d.1 + BitVec.ofInt 32 (qdelta (keyOf d.2 ab)), ab) := by
  rw [decoderStep, wrapS_toInt_add]

/-- A row is the QEDGE of its new pair where it is selected, and nothing elsewhere (log 7). -/
theorem decoderStep_row (d : BitVec 32 × PhasePair) (prev ab : PhasePair) :
    decoderStep d (.row prev ab) =
      (if d.2 = prev then some ab else none).elim d fun c => decoderStep d (.pair c) := by
  by_cases h : d.2 = prev
  · subst h
    simp [decoderStep]
  · simp [decoderStep, h]

/-- An instruction brings to the decoder the pair it presents, if it presents one. -/
theorem foldl_decoderEvents_eq_pairFor {i : Instr} (hr : isReset i = false)
    (d : BitVec 32 × PhasePair) :
    (decoderEvents i).foldl decoderStep d =
      (pairFor i d.2).elim d fun ab => decoderStep d (.pair ab) := by
  cases i with
  | reset => cases hr
  | qedge ab | tickQedge x ab | drainQedge ab | tickDrainQedge x ab => rfl
  | nop | tick | drain | tickDrain | push | pop | yawrd | scale => rfl
  | _ => exact decoderStep_row d _ _

theorem netSteps_cons (prev : PhasePair) (i : Instr) (is : List Instr) :
    netSteps prev (i :: is) =
      (pairFor i prev).elim 0 (fun ab => qdelta (keyOf prev ab)) +
        netSteps ((pairFor i prev).getD prev) is := by
  rw [netSteps]
  cases pairFor i prev <;> simp

/-- The decoder adds up the steps of a list of instructions and keeps the last pair. -/
theorem foldl_decoderEvents_eq_netSteps {is : List Instr} (hr : ∀ i ∈ is, isReset i = false)
    (d : BitVec 32 × PhasePair) :
    (is.flatMap decoderEvents).foldl decoderStep d =
      (d.1 + BitVec.ofInt 32 (netSteps d.2 is), lastPair d.2 is) := by
  induction is generalizing d with
  | nil => simp [netSteps, lastPair]
  | cons i rest ih =>
    obtain ⟨hi, hrest⟩ := List.forall_mem_cons.mp hr
    rw [List.flatMap_cons, List.foldl_append, foldl_decoderEvents_eq_pairFor hi, ih hrest,
      netSteps_cons, lastPair, BitVec.ofInt_add]
    cases pairFor i d.2 with
    | none => simp
    | some ab => simp [decoderStep_pair, BitVec.add_assoc]

/-- Settles O42: a run leaves the decoder as its events do, from `yaw = 0` and the levels of the
RESET. -/
theorem yawCountsNetSteps : Obligations.YawCountsNetSteps := by
  intro p ab0 is t hr h
  have hdec : t.block.decoder = (0 + BitVec.ofInt 32 (netSteps ab0 is), lastPair ab0 is) :=
    (runInstrs_decoder h).trans (foldl_decoderEvents_eq_netSteps hr (0, ab0))
  rw [zero_add] at hdec
  exact Prod.mk.inj hdec

/-! ## Turns and returns (R173 b, c) -/

/-- A sequence of pairs adds its net steps to `yaw`, keeps its last pair, and touches nothing else
of the nine items. -/
theorem foldl_qedge_eq_netSteps (abs : List PhasePair) (b : Block) :
    abs.foldl (fun c ab => qedge ab c) b =
      { b with
        yaw := b.yaw + BitVec.ofInt 32 (netSteps b.prevAb (abs.map .qedge))
        prevAb := lastPair b.prevAb (abs.map .qedge) } := by
  induction abs generalizing b with
  | nil => simp [netSteps, lastPair]
  | cons ab rest ih =>
    rw [List.foldl_cons, ih, qedge_eq, List.map_cons, netSteps_cons, BitVec.ofInt_add,
      ← BitVec.add_assoc]
    rfl

/-- A sequence of pairs that ends where it started leaves its net steps in `yaw` alone. -/
theorem foldl_qedge_of_return {abs : List PhasePair} {b : Block} {d : Int}
    (hd : netSteps b.prevAb (abs.map .qedge) = d)
    (hlast : lastPair b.prevAb (abs.map .qedge) = b.prevAb) :
    abs.foldl (fun c ab => qedge ab c) b = { b with yaw := b.yaw + BitVec.ofInt 32 d } := by
  rw [foldl_qedge_eq_netSteps, hd, hlast]

/-- Settles O39: each turn and each return is a sequence of pairs whose net steps the forward cycle
gives. -/
theorem turnsAddFourAndReturnsAddNothing : Obligations.TurnsAddFourAndReturnsAddNothing := by
  rintro b p0 p1 p2 p3 h rfl
  obtain ⟨q01, q12, q23, q30, q02⟩ := qdelta_of_forwardCycles h
  have q10 := qdelta_keyOf_back q01
  have q21 := qdelta_keyOf_back q12
  have q32 := qdelta_keyOf_back q23
  have q03 := qdelta_keyOf_back q30
  refine ⟨⟨?forward, ?reverse, ?skipped⟩, ?forwardTurn, ?reverseTurn, fun c => ?back⟩
  case forward => rw [qedge_eq, q01]; rfl
  case reverse => rw [qedge_eq, q03, BitVec.sub_eq_add_neg]; rfl
  case skipped => rw [qedge_eq, q02]; exact BitVec.add_zero _
  case forwardTurn =>
    exact foldl_qedge_of_return (abs := [p1, p2, p3, b.prevAb]) (d := 4)
      (by simp [netSteps, pairFor, q01, q12, q23, q30]) rfl
  case reverseTurn =>
    rw [BitVec.sub_eq_add_neg, show -(4 : BitVec 32) = BitVec.ofInt 32 (-4) by decide]
    exact foldl_qedge_of_return (abs := [p3, p2, p1, b.prevAb]) (d := -4)
      (by simp [netSteps, pairFor, q03, q32, q21, q10]) rfl
  case back =>
    have hsteps : netSteps b.prevAb ([c, b.prevAb].map .qedge) = 0 := by
      simp [netSteps, pairFor, qdelta_keyOf_comm b.prevAb c]
    simpa using foldl_qedge_of_return hsteps rfl

end Sys2Proof.Machine

/-! # PROOFS. One clock, its rows, and programs (spec/45_cycle_step.md): the eight forms of CYCLE, the
RESET of the ports, what the end and the trace of a run are, and that neither depends on what the
machine held before the RESET a program begins with. -/

namespace Sys2Proof.Machine

/-! ## Operations complete where the indices are entries (R51) -/

theorem pop_completes {n : Nat} {b : Block} (hrd : b.rd < n) (clock : Nat) :
    ∃ v c, pop n clock b = .ok (v, c) := by
  by_cases hc : b.count = 0
  · exact ⟨_, _, pop_empty hc⟩
  · exact ⟨_, _, pop_eq_popped hc hrd⟩

theorem drain_completes {p : Params} {b : Block} (hrd : b.rd < p.n) (clock : Nat) :
    ∃ c o, drain p clock b = .ok (c, o) := by
  by_cases hc : b.count = 0
  · exact ⟨_, _, drain_empty hc⟩
  · exact ⟨_, _, drain_some hc hrd⟩

theorem slotOne_completes {p : Params} {b : Block} (hwr : b.wr < p.n) (hrd : b.rd < p.n)
    (i : Instr) (clock : Nat) : ∃ c o, slotOne i p clock b = .ok (c, o) := by
  cases i with
  | tick | tickQedge | tickDrain | tickDrainQedge =>
    exact ⟨_, none, noRecord_eq_ok.mpr ⟨tick_of_lt hwr, rfl⟩⟩
  | push => exact ⟨_, none, noRecord_eq_ok.mpr ⟨push_eq_ok_pushed.mpr ⟨hwr, rfl⟩, rfl⟩⟩
  | drain | drainQedge => exact drain_completes hrd clock
  | pop =>
    obtain ⟨v, c, h⟩ := pop_completes hrd clock
    exact ⟨c, none, congrArg popEffect h⟩
  | _ => exact ⟨b, none, rfl⟩

/-- Every instruction has an effect: a RESET always, another where its first slot has one. -/
theorem effect_completes {s : State} (hwr : s.block.wr < s.params.n)
    (hrd : s.block.rd < s.params.n) (i : Instr) : ∃ b o, effect i s = .ok (b, o) := by
  cases hi : isReset i with
  | true =>
    cases i with
    | reset ab => exact ⟨_, _, rfl⟩
    | _ => cases hi
  | false =>
    obtain ⟨c, o, h⟩ := slotOne_completes hwr hrd i s.clock
    exact ⟨slotTwo i c, o, by rw [effect_eq_slots s hi, h]; rfl⟩

/-! ## NOP, the RESET of the ports, and the rows of R193 -/

/-- Settles O19: NOP is one clock whose effect is the block as it was. -/
theorem nopChangesNothing : Obligations.NopChangesNothing := fun _ hl => exec_of_effect hl rfl

/-- With `rst = 1` the ports select a RESET to their phase levels, whatever the enables carry. -/
theorem toInstr_of_rst {p : Inputs} (h : p.rst = true) :
    p.toInstr = .reset (BitVec.ofBool p.a ++ BitVec.ofBool p.b) := by
  simp [Inputs.toInstr, h]

/-- Settles O9: the clock is the RESET that the ports select. -/
theorem resetPortOverridesTheOthers : Obligations.ResetPortOverridesTheOthers := by
  intro s p rest hl hs hp
  rw [step_of_fetch (fetch_ports hs) (congrArg List.tail hs), toInstr_of_rst hp]
  exact resetSetsEveryRegister _ _ hl

/-- A row with a QEDGE slot does what the row without it does, and the QEDGE after that. -/
theorem exec_withQedge {i j : Instr} {ab : PhasePair} {s : State} {b : Block}
    {o : Option OutRecord} (hl : s.params.legal = true)
    (hij : effect i s = withQedge ab (effect j s)) (hj : effect j s = .ok (b, o)) :
    exec i s = .next (s.after (qedge ab b) o (answer i s)) :=
  exec_of_effect hl (by rw [hij, hj, withQedge_ok])

/-- Settles O23: TICK and DRAIN are the first slots, a QEDGE adds to each its row, and the rows with
`t = 1` do not look at `d`. -/
theorem cycleFormsAreTheirTableRows : Obligations.CycleFormsAreTheirTableRows := by
  intro x ab s hl hwr hrd
  have htick := tick_of_lt (x := x) hwr
  obtain ⟨bd, o, hdrain⟩ := drain_completes hrd s.clock
  have htickEffect : effect (.tick x) s = _ := noRecord_eq_ok.mpr ⟨htick, rfl⟩
  exact ⟨_, bd, o, htick, hdrain, nopChangesNothing s hl, exec_qedge hl ab, exec_tick hl hwr,
    exec_withQedge hl rfl htickEffect, exec_drain hl hdrain,
    exec_withQedge (j := .drain) hl rfl hdrain, rfl, rfl⟩

/-! ## A run and its output trace, first clock first (R195) -/

theorem mem_traceEntry {index j : Nat} {s : State} {r : OutRecord} :
    (j, r) ∈ s.traceEntry index ↔ j = index ∧ s.outputs.record = some r := by
  unfold State.traceEntry
  cases s.outputs.record <;> simp [eq_comm]

/-- The ports of the last clock hold at most one record. -/
theorem traceEntry_pairwise (R : Nat × OutRecord → Nat × OutRecord → Prop) (index : Nat)
    (s : State) : (s.traceEntry index).Pairwise R := by
  unfold State.traceEntry
  cases s.outputs.record <;> simp

/-- A run of one clock more is its first clock, then the rest, whose records follow. -/
theorem runTrace_succ_eq_next {steps index : Nat} {s e : State}
    {trace : List (Nat × OutRecord)} :
    runTrace (steps + 1) index s = .next (e, trace) ↔ ∃ t rest, step s = .next t ∧
      runTrace steps (index + 1) t = .next (e, rest) ∧ trace = t.traceEntry index ++ rest := by
  rw [runTrace]
  rcases step s with t | f | r
  · rcases hrest : runTrace steps (index + 1) t with ⟨e', rest⟩ | f | r
    · simpa [hrest] using fun _ => eq_comm
    · simp [hrest]
    · simp [hrest]
  · simp
  · simp

/-- The end of a run with its trace is the end of the run. -/
theorem core_run_of_runTrace {steps index : Nat} {s e : State} {trace : List (Nat × OutRecord)}
    (h : runTrace steps index s = .next (e, trace)) : core.run steps s = .next e := by
  induction steps generalizing index s trace with
  | zero =>
    obtain ⟨rfl, -⟩ := Prod.mk.inj (Host.Outcome.next.inj h)
    rfl
  | succ steps ih =>
    obtain ⟨t, rest, hstep, hrest, -⟩ := runTrace_succ_eq_next.mp h
    rw [core_run_succ hstep]
    exact ih hrest

/-- The `m`-th clock of a run, counted from 0, ends in a state that carries the record `r`. -/
def EmitsAt (s : State) (m : Nat) (r : OutRecord) : Prop :=
  ∃ t : State, core.run (m + 1) s = .next t ∧ t.outputs.record = some r

theorem emitsAt_zero {s t : State} {r : OutRecord} (h : step s = .next t) :
    EmitsAt s 0 r ↔ t.outputs.record = some r := by
  have hrun : core.run 1 s = .next t := core_run_succ h
  constructor
  · rintro ⟨u, hu, hr⟩
    obtain rfl := Host.Outcome.next.inj (hrun.symm.trans hu)
    exact hr
  · exact fun hr => ⟨t, hrun, hr⟩

theorem emitsAt_succ {s t : State} {m : Nat} {r : OutRecord} (h : step s = .next t) :
    EmitsAt s (m + 1) r ↔ EmitsAt t m r := by
  rw [EmitsAt, core_run_succ h, EmitsAt]

/-- The trace of a run holds the records of its clocks, each with its clock's number. -/
theorem mem_trace_iff {steps index : Nat} {s e : State} {trace : List (Nat × OutRecord)}
    (h : runTrace steps index s = .next (e, trace)) (j : Nat) (r : OutRecord) :
    (j, r) ∈ trace ↔ ∃ m < steps, j = index + m ∧ EmitsAt s m r := by
  induction steps generalizing index s trace with
  | zero =>
    obtain ⟨-, rfl⟩ := Prod.mk.inj (Host.Outcome.next.inj h)
    simp
  | succ steps ih =>
    obtain ⟨t, rest, hstep, hrest, rfl⟩ := runTrace_succ_eq_next.mp h
    rw [List.mem_append, mem_traceEntry, ih hrest]
    constructor
    · rintro (⟨hj, hr⟩ | ⟨m, hm, hj, hr⟩)
      · exact ⟨0, by omega, hj, (emitsAt_zero hstep).mpr hr⟩
      · exact ⟨m + 1, by omega, by omega, (emitsAt_succ hstep).mpr hr⟩
    · rintro ⟨_ | m, hm, hj, hr⟩
      · exact .inl ⟨hj, (emitsAt_zero hstep).mp hr⟩
      · exact .inr ⟨m, by omega, by omega, (emitsAt_succ hstep).mp hr⟩

/-- The numbers in a trace strictly rise: those of later clocks are beyond the first one's. -/
theorem trace_numbers_rise {steps index : Nat} {s e : State} {trace : List (Nat × OutRecord)}
    (h : runTrace steps index s = .next (e, trace)) : (trace.map (·.1)).Pairwise (· < ·) := by
  rw [List.pairwise_map]
  induction steps generalizing index s trace with
  | zero =>
    obtain ⟨-, rfl⟩ := Prod.mk.inj (Host.Outcome.next.inj h)
    exact .nil
  | succ steps ih =>
    obtain ⟨t, rest, -, hrest, rfl⟩ := runTrace_succ_eq_next.mp h
    refine List.pairwise_append.mpr ⟨traceEntry_pairwise _ index t, ih hrest, ?_⟩
    rintro ⟨i, q⟩ hfirst ⟨j, r⟩ hlater
    obtain ⟨hi, -⟩ := mem_traceEntry.mp hfirst
    obtain ⟨m, -, hj, -⟩ := (mem_trace_iff hrest j r).mp hlater
    show i < j
    omega

/-- Settles O57: a program is a run whose clocks are numbered from 0. -/
theorem programsEndWhereTheirWordsLeaveThem : Obligations.ProgramsEndWhereTheirWordsLeaveThem := by
  refine ⟨fun s e ws trace h => ⟨core_run_of_runTrace h, trace_numbers_rise h, fun j r => ?_⟩,
    fun steps index s e trace h =>
      ⟨core_run_of_runTrace h, trace_numbers_rise h, fun j r => ?_⟩⟩
  · rw [mem_trace_iff h]
    constructor
    · rintro ⟨m, hm, hj, t, ht⟩
      obtain rfl : j = m := by omega
      exact ⟨t, hm, ht⟩
    · rintro ⟨t, hj, ht⟩
      exact ⟨j, hj, by omega, t, ht⟩
  · rw [mem_trace_iff h]
    constructor
    · rintro ⟨m, hm, hj, t, ht⟩
      exact ⟨m, t, hm, hj, ht⟩
    · rintro ⟨m, t, hm, hj, ht⟩
      exact ⟨m, hm, hj, t, ht⟩

/-! ## The clock count decides nothing in a good block (R21) -/

/-- A written entry reads the same in every clock. -/
theorem Memory.read_of_isSome {m : Memory} {i : Nat} (h : (Memory.read? m i).isSome = true)
    (c d : Nat) : Memory.read m c i = Memory.read m d i := by
  obtain ⟨v, hv⟩ := Option.isSome_iff_exists.mp h
  simp [Memory.read, hv]

/-- The entry a POP takes is an unread one, so it has been written. -/
theorem pop_of_good {n : Nat} {b : Block} (h : b.Good n) (c d : Nat) :
    pop n c b = pop n d b := by
  by_cases hc : b.count = 0
  · rw [pop_empty hc, pop_empty hc]
  · have hrd := h.buffer.rd_lt
    have hwritten : (Memory.read? b.mem b.rd).isSome = true := by
      simpa [Nat.mod_eq_of_lt hrd] using h.written 0 (Nat.pos_of_ne_zero hc)
    rw [pop_eq_popped hc hrd, pop_eq_popped hc hrd, Memory.read_of_isSome hwritten c d]

/-- An instruction does the same to the same good block in every clock. -/
theorem effect_of_good {s u : State} (h : s.block.Good s.params.n) (hp : s.params = u.params)
    (hb : s.block = u.block) (i : Instr) : effect i s = effect i u := by
  have hpop := pop_of_good h s.clock u.clock
  rw [hp, hb] at hpop
  cases i with
  | drain | drainQedge | pop => simp only [effect, drain, hp, hb, hpop]
  | _ => simp only [effect, hp, hb]

/-! ## Programs (R195, R210) -/

/-- The stimuli of a list of command words, one per clock. -/
def wordStimuli (ws : List CommandWord) : List Stimulus := ws.map fun w => .word (commandBytes w)

/-- Two machines built alike, with the same command words ahead of both. -/
structure State.Beside (ws : List CommandWord) (s u : State) : Prop where
  params : s.params = u.params
  left : s.stimuli = wordStimuli ws
  right : u.stimuli = wordStimuli ws

/-- The clock of a command word, from the effect of its instruction. -/
theorem step_of_word {s : State} {w : CommandWord} {ws : List CommandWord} {i : Instr} {b : Block}
    {o : Option OutRecord} (hs : s.stimuli = wordStimuli (w :: ws))
    (hi : decodeCommand w = .ok i) (hl : s.params.legal = true)
    (he : effect i s.advance = .ok (b, o)) :
    step s = .next (s.advance.after b o (answer i s.advance)) :=
  step_eq_next.mpr
    ⟨i, (fetch_word hs).trans ((decode_commandBytes w).trans hi), exec_of_effect hl he⟩

/-- A clock of two machines side by side leaves them so, with one word fewer ahead. -/
theorem State.Beside.after {w : CommandWord} {ws : List CommandWord} {s u : State}
    (h : State.Beside (w :: ws) s u) (b c : Block) (o q : Option OutRecord) (r v : Response) :
    State.Beside ws (s.advance.after b o r) (u.advance.after c q v) :=
  ⟨h.params, congrArg List.tail h.left, congrArg List.tail h.right⟩

/-- Both runs complete, with the same trace and the same nine items at the end, which is good. -/
def RunAlike (steps index : Nat) (s u : State) : Prop :=
  ∃ e f trace, runTrace steps index s = .next (e, trace) ∧
    runTrace steps index u = .next (f, trace) ∧ e.Inv ∧ e.block = f.block

/-- A first clock that emits the same in both runs, before runs that are alike. -/
theorem RunAlike.of_step {steps index : Nat} {s t u v : State} (hs : step s = .next t)
    (hu : step u = .next v) (hrec : t.outputs.record = v.outputs.record)
    (h : RunAlike steps (index + 1) t v) : RunAlike (steps + 1) index s u := by
  obtain ⟨e, f, rest, hleft, hright, hinv, hblock⟩ := h
  have hentry : t.traceEntry index = v.traceEntry index := by
    rw [State.traceEntry, State.traceEntry, hrec]
  exact ⟨e, f, t.traceEntry index ++ rest,
    runTrace_succ_eq_next.mpr ⟨t, rest, hs, hleft, rfl⟩,
    runTrace_succ_eq_next.mpr ⟨v, rest, hu, hright, by rw [hentry]⟩, hinv, hblock⟩

/-- A word that is not reserved is an instruction. -/
theorem exists_decodeCommand {w : CommandWord} (h : commandReserved w = false) :
    ∃ i, decodeCommand w = .ok i := by
  rcases hd : decodeCommand w with r | i
  · cases h.symm.trans ((decodeCommand_refuses_iff w).mp ⟨r, hd⟩)
  · exact ⟨i, rfl⟩

/-- An unreserved word of the class 001 is a RESET (R80). -/
theorem decodeCommand_of_resetClass {w : CommandWord} (hc : fieldClass w = 0b001#3)
    (h : commandReserved w = false) : decodeCommand w = .ok (.reset (fieldAb w)) := by
  obtain ⟨i, hi⟩ := exists_decodeCommand h
  obtain ⟨-, rfl⟩ := eq_ok_of_ite ((decodeCommand_reset hc).symm.trans hi)
  exact hi

/-- From the same good nine items, unreserved words run alike: each clock has the same effect on
both, and keeps the invariant. -/
theorem runAlike_of_inv {ws : List CommandWord} (hw : ∀ w ∈ ws, commandReserved w = false)
    {s u : State} (hs : s.Inv) (h : State.Beside ws s u) (hb : s.block = u.block) (index : Nat) :
    RunAlike ws.length index s u := by
  induction ws generalizing s u index with
  | nil => exact ⟨s, u, [], rfl, rfl, hs, hb⟩
  | cons w ws ih =>
    obtain ⟨hfirst, hrest⟩ := List.forall_mem_cons.mp hw
    obtain ⟨hl, hgood, -⟩ := s.inv_iff.mp hs
    obtain ⟨i, hi⟩ := exists_decodeCommand hfirst
    obtain ⟨c, o, heffect⟩ := effect_completes (s := s.advance) hgood.buffer.wr_lt
      hgood.buffer.rd_lt i
    have hsame : effect i s.advance = effect i u.advance :=
      effect_of_good (s := s.advance) (u := u.advance) hgood h.params hb i
    have hstep := step_of_word h.left hi hl heffect
    have hstep' := step_of_word h.right hi (h.params ▸ hl) (hsame.symm.trans heffect)
    exact .of_step hstep hstep' rfl
      (ih hrest (stepKeepsTheInvariant s _ hs hstep) (h.after _ _ _ _ _ _) rfl (index + 1))

/-- RESET makes the machine good, whatever it held. -/
theorem after_reset_inv {s : State} (hl : s.params.legal = true) (ab : PhasePair) (r : Response) :
    (s.after (resetBlock ab s.block) none r).Inv := by
  obtain ⟨hn, -⟩ := s.params.legal_iff.mp hl
  exact (State.inv_iff _).mpr ⟨hl, afterReset_good hn ab, recordOk_after_none _ _ _ _⟩

/-- A RESET word, then unreserved words, run alike on two machines that are built alike. -/
theorem runAlike_of_reset {w : CommandWord} {ws : List CommandWord} {s u : State} {ab : PhasePair}
    (hi : decodeCommand w = .ok (.reset ab)) (hw : ∀ v ∈ ws, commandReserved v = false)
    (hl : s.params.legal = true) (h : State.Beside (w :: ws) s u) (index : Nat) :
    RunAlike (ws.length + 1) index s u :=
  .of_step (step_of_word h.left hi hl rfl) (step_of_word h.right hi (h.params ▸ hl) rfl) rfl
    (runAlike_of_inv hw (after_reset_inv (s := s.advance) hl ab _) (h.after _ _ _ _ _ _) rfl
      (index + 1))

/-- Settles O58: the first word is a RESET, after which both machines hold the same good nine
items. -/
theorem programsRunAlikeFromAnyState : Obligations.ProgramsRunAlikeFromAnyState := by
  intro s u ws hl hp hprogram
  cases ws with
  | nil => cases hprogram
  | cons w ws =>
    obtain ⟨hclass, hwords⟩ :
        fieldClass w = 0b001#3 ∧ ∀ v ∈ w :: ws, commandReserved v = false := by
      simpa [isProgram] using hprogram
    obtain ⟨hfirst, hrest⟩ := List.forall_mem_cons.mp hwords
    exact runAlike_of_reset (decodeCommand_of_resetClass hclass hfirst) hrest
      (s := s.loadWords (w :: ws)) (u := u.loadWords (w :: ws)) hl ⟨hp.symm, rfl, rfl⟩ 0

end Sys2Proof.Machine

/-! # PROOFS. Stops and refusals (spec/60_exceptions.md): the block takes no exception, so from a good
state every instruction completes and every clock that presents one has a next state. -/

namespace Sys2Proof.Machine

/-! ## Every instruction completes (R210) -/

/-- Settles O15: the invariant keeps both indices below `N`, so there is an effect, and the next
state it gives is good again. -/
theorem everyInstructionCompletes : Obligations.EveryInstructionCompletes := by
  intro i s hs
  obtain ⟨b, o, heffect⟩ := effect_completes hs.buffer.wr_lt hs.buffer.rd_lt i
  have hexec := exec_of_effect hs.legal heffect
  exact ⟨_, hexec, exec_keeps_inv hs hexec⟩

/-! ## Every clock has a next state (R191, R210) -/

/-- The invariant says nothing of the queue of stimuli or of the clock count. -/
theorem advance_inv {s : State} (hs : s.Inv) : s.advance.Inv :=
  (State.inv_iff _).mpr (s.inv_iff.mp hs)

/-- The environment presents an instruction unless it presents a word that is none: input ports,
queued or free, always carry one. -/
theorem exists_fetch {s : State} (h : s.nextIsWord) : ∃ i, fetch s = .ok i := by
  cases hq : s.stimuli with
  | nil => exact ⟨_, fetch_idle hq⟩
  | cons first rest =>
    cases first with
    | ports p => exact ⟨_, fetch_ports hq⟩
    | word bytes =>
      obtain ⟨i, hi⟩ := h bytes rest hq
      exact ⟨i, (fetch_word hq).trans hi⟩

/-- Settles O14: an instruction is presented, and it completes on the advanced state, which is as good
as the state. -/
theorem theBlockNeverStops : Obligations.TheBlockNeverStops := by
  intro s hs hword
  obtain ⟨i, hfetch⟩ := exists_fetch hword
  obtain ⟨t, hexec, -⟩ := everyInstructionCompletes i s.advance (advance_inv hs)
  exact ⟨t, step_eq_next.mpr ⟨i, hfetch, hexec⟩⟩

end Sys2Proof.Machine
